-- ==== Sys2Proof/Word.lean ====
section
/-! DEFINITION. The word types of the block and their plainest names. Bit 0 of any value is its least significant bit
(00_scope.md R12); widths are the `uN` of R14. -/

namespace Sys2Proof

/-- A byte, the `u8` of 00_scope.md R14. -/
abbrev Byte := BitVec 8

/-- A 10-bit payload word: a cluster's count, its timestamp or a sample (30_encoding.md R74). -/
abbrev Word10 := BitVec 10

/-- A 50-bit SAMPA Data Header, bit 0 the least significant (30_encoding.md R70). -/
abbrev Sdh := BitVec 50

/-- An elink number, 0..39 (00_scope.md R10, `NUM_ELINKS`). -/
abbrev ElinkId := Fin 40

/-- A container handle, "an 8-bit number" (30_encoding.md R78). -/
abbrev Handle := BitVec 8

end Sys2Proof
end

