-- ==== Sys2Proof/Config.lean ====
section
/-! DEFINITION. The implementation parameters of 00_scope.md R10. "A model takes each one as a configuration argument"; they are
fixed for a whole run (10_state.md R26). The one parameter R10 marks OPEN has no value here: it is an opaque constant. -/

namespace Sys2Proof

/-- The parameters of 00_scope.md R10, but for `NUM_ELINKS` and `HEADER_BITS`, which R10 fixes at 40 and 50. -/
structure Config where
  /-- `N_DISPATCH_BYTES`: GBT bytes Dispatch reads per word, an integer in 1..10 (R10, R123). -/
  nDispatchBytes : Nat
  /-- `ELINK_INIT_CAPACITY_BITS`: initial capacity of each elink container, at least 100 000. -/
  elinkInitCapacityBits : Nat
  /-- `SCRATCH_INIT_CAPACITY_BITS`: initial capacity of each scratch container, at least 1. -/
  scratchInitCapacityBits : Nat
  /-- `MAX_CAPACITY_BITS`: growth is refused beyond this capacity. -/
  maxCapacityBits : Nat
  /-- `MAX_PAYLOAD_BYTES`: size of the payload buffer. -/
  maxPayloadBytes : Nat
  /-- `NUM_SCRATCH`: number of scratch containers. -/
  numScratch : Nat
  /-- `RESYNC_AT_EVENT_BOUNDARY`: the sequencer force-clears every elink at the end of an event. -/
  resyncAtEventBoundary : Bool
  deriving DecidableEq, Repr

/-- The OPEN parameter `N_DISPATCH_BYTES` of 00_scope.md R10, less one, so that it lies in 1..10 whatever it is
(DESIGN CHOICE, log 2: the source says "do not guess", so nothing here gives it a value). -/
opaque Config.openDispatchBytes : Fin 10

/-- The parameters with every default of 00_scope.md R10, at a given `N_DISPATCH_BYTES`. -/
def Config.withDispatchBytes (n : Nat) : Config where
  nDispatchBytes := n
  elinkInitCapacityBits := 100000
  scratchInitCapacityBits := 64
  maxCapacityBits := 1677721600
  maxPayloadBytes := 4294967215
  numScratch := 4
  resyncAtEventBoundary := true

/-- The parameters State.reset carries: the defaults of R10, `N_DISPATCH_BYTES` left open (log 2). -/
def Config.chip : Config := Config.withDispatchBytes (Config.openDispatchBytes.val + 1)

/-- The ranges 00_scope.md R10 gives the parameters. A handle is an 8-bit number and `T[k]` is handle `64 + k`
(30_encoding.md R78), so at most 192 scratch containers can be named. -/
abbrev Config.Valid (c : Config) : Prop :=
  1 ≤ c.nDispatchBytes ∧ c.nDispatchBytes ≤ 10 ∧ 100000 ≤ c.elinkInitCapacityBits ∧ 1 ≤ c.scratchInitCapacityBits ∧
    c.numScratch ≤ 192

end Sys2Proof
end

