-- ==== Sys2Proof/Syntax.lean ====
section
/-! DEFINITION. The syntax of the block: one constructor of `Instr` per row of spec/opcode_table.json (40 host commands,
30_encoding.md R79, and 9 header rows, R72 and R73), and the encoded forms they are decoded from. -/

namespace Sys2Proof

/-- The fields of a SAMPA Data Header other than PKT, which selects the row (30_encoding.md R70). -/
structure SdhFields where
  hamming : BitVec 6
  parity : BitVec 1
  numWords : BitVec 10
  hadd : BitVec 4
  chadd : BitVec 5
  bxcount : BitVec 20
  dp : BitVec 1
  deriving DecidableEq, Repr

/-- The instructions: what the host can command (30_encoding.md R79) and what an elink can find in its stream (R72, R73).
A header row carries the elink whose container holds it, and the header's fields (log 9). -/
inductive Instr where
  | bcGet (h : Handle) (i : Int)
  | bcSet (h : Handle) (i : Int) (v : Bool)
  | bcAppend (h : Handle) (v : Bool)
  | bcClear (h : Handle)
  | bcSetr8 (h : Handle) (a b : Int) (x : BitVec 8)
  | bcSetr16 (h : Handle) (a b : Int) (x : BitVec 16)
  | bcSetr32 (h : Handle) (a b : Int) (x : BitVec 32)
  | bcSetr64 (h : Handle) (a b : Int) (x : BitVec 64)
  | bcUint8 (h : Handle) (a b : Int)
  | bcUint16 (h : Handle) (a b : Int)
  | bcUint32 (h : Handle) (a b : Int)
  | bcUint64 (h : Handle) (a b : Int)
  | bcSetbytes (h : Handle) (bs : List Byte)
  | bcSearch (h p : Handle)
  | bcLast (d h : Handle) (n : Int)
  | bcPrune (h : Handle) (n : Int)
  | bcEqual (h p : Handle)
  | bcCount (h : Handle)
  | bcLen (h : Handle)
  | bcStrl (h : Handle)
  | bcStrr (h : Handle)
  | bcFromstr (h : Handle) (cs : List Char)
  | bcFromu8 (h : Handle) (x : BitVec 8)
  | bcFromu16 (h : Handle) (x : BitVec 16)
  | bcFromu32 (h : Handle) (x : BitVec 32)
  | bcFromu64 (h : Handle) (x : BitVec 64)
  | rdNextevent
  | rdNextgbt
  | dspWord (g : List Byte)
  | dspClearall
  | elAppend (e : ElinkId) (v0 v1 : Bool)
  | elPush (e : ElinkId) (v : Bool)
  | elForceclear (e : ElinkId)
  | elIsempty (e : ElinkId)
  | elRead (e : ElinkId)
  | plStep
  | cfgSetmask (m : BitVec 40)
  | cfgGetmask
  | sysStatus
  | sysReset (src : List Byte)
  | sdhHeartbeat (e : ElinkId) (f : SdhFields)
  | sdhDataTruncated (e : ElinkId) (f : SdhFields)
  | sdhSync (e : ElinkId) (f : SdhFields)
  | sdhDataTruncatedTriggerTooEarly (e : ElinkId) (f : SdhFields)
  | sdhData (e : ElinkId) (f : SdhFields)
  | sdhDataNumwords (e : ElinkId) (f : SdhFields)
  | sdhDataTriggerTooEarly (e : ElinkId) (f : SdhFields)
  | sdhDataTriggerTooEarlyNumwords (e : ElinkId) (f : SdhFields)
  | sdhSyncPatternHuntMatch (e : ElinkId)
  deriving DecidableEq, Repr

/-- One operand field of a command as the host sends it: a number, a byte sequence or a character string
(30_encoding.md R77). -/
inductive Operand where
  | int (n : Int)
  | bytes (bs : List Byte)
  | str (cs : List Char)
  deriving DecidableEq, Repr

/-- A command as the host sends it: "an 8-bit opcode followed by its operands, each a separate field, not packed into the
opcode byte" (30_encoding.md R77; log 6). -/
structure RawCommand where
  opcode : BitVec 8
  operands : List Operand
  deriving DecidableEq, Repr

/-- What the block can be given to decode: a host command, the last 50 bits of an elink in HUNT, or the 50-bit header of an
elink in HEADER (44_elink.md R131, R133). -/
inductive Fetched where
  | command (c : RawCommand)
  | hunt (e : ElinkId) (w : Sdh)
  | header (e : ElinkId) (w : Sdh)
  deriving DecidableEq, Repr

/-- Why a fetched unit is no instruction: the cases of 30_encoding.md R80 (all of them `ILLEGAL_COMMAND`), but for the handle
rule R78, which the meaning checks (40_bit_container.md R83, log 7); and the HUNT window that does not match (R131), which is
no error of the stream. -/
inductive DecodeError where
  /-- An opcode that 30_encoding.md R79 does not list. -/
  | unknownOpcode
  /-- A listed opcode with the wrong number of operands. -/
  | operandCount
  /-- An operand of the wrong kind. -/
  | operandKind
  /-- A handle that is no 8-bit number. -/
  | handleWidth
  /-- A bit operand that is not 0 or 1. -/
  | bitRange
  /-- An elink number outside 0..39. -/
  | elinkRange
  /-- An `x` operand outside `0 .. 2^W - 1`. -/
  | valueRange
  /-- A mask outside `0 .. 2^40 - 1`. -/
  | maskRange
  /-- The last 50 bits of a hunting elink are not the sync pattern (44_elink.md R131). -/
  | noSyncMatch
  deriving DecidableEq, Repr

end Sys2Proof
end

