-- ==== Sys2Proof/WellFormed.lean ====
section
/-! DEFINITION. Well-formed instructions: every handle obeys 30_encoding.md R78 in the position it stands in. Every other
condition of R80 on an operand's value is carried by the operand's type in `Instr`. -/

namespace Sys2Proof

/-- `h = 64 + k` with `k < NUM_SCRATCH`: a handle every `BC.*` command may use (30_encoding.md R78). -/
def Handle.isScratch (cfg : Config) (h : Handle) : Bool :=
  decide (64 ≤ h.toNat ∧ h.toNat < 64 + cfg.numScratch)

/-- `h = e` with `e ≤ 39`: an elink's container, a read operand only (30_encoding.md R78). -/
def Handle.isElink (h : Handle) : Bool :=
  decide (h.toNat < 40)

/-- A handle R78 allows in a reading position. -/
def Handle.readable (cfg : Config) (h : Handle) : Bool :=
  h.isElink || h.isScratch cfg

/-- The check of 30_encoding.md R78 on every handle of an instruction; nothing else can be ill-formed. -/
def Instr.wellFormed (cfg : Config) : Instr → Bool
  | .bcGet h _ => h.readable cfg
  | .bcSet h _ _ => h.isScratch cfg
  | .bcAppend h _ => h.isScratch cfg
  | .bcClear h => h.isScratch cfg
  | .bcSetr8 h _ _ _ => h.isScratch cfg
  | .bcSetr16 h _ _ _ => h.isScratch cfg
  | .bcSetr32 h _ _ _ => h.isScratch cfg
  | .bcSetr64 h _ _ _ => h.isScratch cfg
  | .bcUint8 h _ _ => h.readable cfg
  | .bcUint16 h _ _ => h.readable cfg
  | .bcUint32 h _ _ => h.readable cfg
  | .bcUint64 h _ _ => h.readable cfg
  | .bcSetbytes h _ => h.isScratch cfg
  | .bcSearch h p => h.readable cfg && p.readable cfg
  | .bcLast d h _ => d.isScratch cfg && h.readable cfg
  | .bcPrune h _ => h.isScratch cfg
  | .bcEqual h p => h.readable cfg && p.readable cfg
  | .bcCount h => h.readable cfg
  | .bcLen h => h.readable cfg
  | .bcStrl h => h.readable cfg
  | .bcStrr h => h.readable cfg
  | .bcFromstr h _ => h.isScratch cfg
  | .bcFromu8 h _ => h.isScratch cfg
  | .bcFromu16 h _ => h.isScratch cfg
  | .bcFromu32 h _ => h.isScratch cfg
  | .bcFromu64 h _ => h.isScratch cfg
  | .rdNextevent => true
  | .rdNextgbt => true
  | .dspWord _ => true
  | .dspClearall => true
  | .elAppend _ _ _ => true
  | .elPush _ _ => true
  | .elForceclear _ => true
  | .elIsempty _ => true
  | .elRead _ => true
  | .plStep => true
  | .cfgSetmask _ => true
  | .cfgGetmask => true
  | .sysStatus => true
  | .sysReset _ => true
  | .sdhHeartbeat _ _ => true
  | .sdhDataTruncated _ _ => true
  | .sdhSync _ _ => true
  | .sdhDataTruncatedTriggerTooEarly _ _ => true
  | .sdhData _ _ => true
  | .sdhDataNumwords _ _ => true
  | .sdhDataTriggerTooEarly _ _ => true
  | .sdhDataTriggerTooEarlyNumwords _ _ => true
  | .sdhSyncPatternHuntMatch _ => true

end Sys2Proof
end

