-- ==== Sys2Proof/Decode.lean ====
section
/-! DEFINITION. The encodings: the SAMPA Data Header (30_encoding.md R70 - R73), the command map (R79, R80), the decoder, total
on every fetched unit and rejecting by name, and the encoder written from the same tables. -/

namespace Sys2Proof

/-! ### The SAMPA Data Header -/

/-- `hamming(h) = h[5:0]` (30_encoding.md R70). -/
def Sdh.hamming (h : Sdh) : BitVec 6 := h.extractLsb' 0 6
/-- `parity(h) = h[6]` (30_encoding.md R70). -/
def Sdh.parity (h : Sdh) : BitVec 1 := h.extractLsb' 6 1
/-- `pkt(h) = h[9:7]` (30_encoding.md R70). -/
def Sdh.pkt (h : Sdh) : BitVec 3 := h.extractLsb' 7 3
/-- `numwords(h) = h[19:10]` (30_encoding.md R70). -/
def Sdh.numWords (h : Sdh) : BitVec 10 := h.extractLsb' 10 10
/-- `hadd(h) = h[23:20]` (30_encoding.md R70). -/
def Sdh.hadd (h : Sdh) : BitVec 4 := h.extractLsb' 20 4
/-- `chadd(h) = h[28:24]` (30_encoding.md R70). -/
def Sdh.chadd (h : Sdh) : BitVec 5 := h.extractLsb' 24 5
/-- `bxcount(h) = h[48:29]` (30_encoding.md R70). -/
def Sdh.bxcount (h : Sdh) : BitVec 20 := h.extractLsb' 29 20
/-- `dp(h) = h[49]` (30_encoding.md R70). -/
def Sdh.dp (h : Sdh) : BitVec 1 := h.extractLsb' 49 1

/-- The fields of a header other than PKT (30_encoding.md R70). -/
def Sdh.fields (h : Sdh) : SdhFields where
  hamming := Sdh.hamming h
  parity := Sdh.parity h
  numWords := Sdh.numWords h
  hadd := Sdh.hadd h
  chadd := Sdh.chadd h
  bxcount := Sdh.bxcount h
  dp := Sdh.dp h

/-- The 50 bits of a header with a given PKT and the other fields, DP the highest (30_encoding.md R70). -/
def Sdh.pack (pkt : BitVec 3) (f : SdhFields) : Sdh :=
  f.dp ++ f.bxcount ++ f.chadd ++ f.hadd ++ f.numWords ++ pkt ++ f.parity ++ f.hamming

/-- `SYNC_PATTERN`, the 50-bit value of 00_scope.md R11 and 30_encoding.md R73. -/
def syncPattern : Sdh := 0x1555540F00113#50

/-! ### Operand fields -/

/-- A numeric operand field. -/
def Operand.asInt : Operand → Except DecodeError Int
  | .int n => .ok n
  | .bytes _ => .error .operandKind
  | .str _ => .error .operandKind

/-- A byte sequence field. -/
def Operand.asBytes : Operand → Except DecodeError (List Byte)
  | .bytes bs => .ok bs
  | .int _ => .error .operandKind
  | .str _ => .error .operandKind

/-- A character string field. -/
def Operand.asStr : Operand → Except DecodeError (List Char)
  | .str cs => .ok cs
  | .int _ => .error .operandKind
  | .bytes _ => .error .operandKind

/-- A number in `0 .. 2^w - 1`, or the error `err` (30_encoding.md R80). -/
def Operand.asUint (w : Nat) (err : DecodeError) : Operand → Except DecodeError (BitVec w)
  | .int n => if 0 ≤ n ∧ n < 2 ^ w then .ok (BitVec.ofNat w n.toNat) else .error err
  | .bytes _ => .error .operandKind
  | .str _ => .error .operandKind

/-- A container handle, "an 8-bit number" (30_encoding.md R78). -/
def Operand.asHandle : Operand → Except DecodeError Handle := Operand.asUint 8 .handleWidth

/-- An `x` operand of the command's width (30_encoding.md R77, R80; vector V-BC-2 against it: log 14). -/
def Operand.asValue (w : Nat) : Operand → Except DecodeError (BitVec w) := Operand.asUint w .valueRange

/-- A 40-bit mask (30_encoding.md R77, R80). -/
def Operand.asMask : Operand → Except DecodeError (BitVec 40) := Operand.asUint 40 .maskRange

/-- A bit, 0 or 1 (30_encoding.md R80). -/
def Operand.asBit : Operand → Except DecodeError Bool
  | .int n => if n = 0 then .ok false else if n = 1 then .ok true else .error .bitRange
  | .bytes _ => .error .operandKind
  | .str _ => .error .operandKind

/-- An elink number, 0..39 (30_encoding.md R80). -/
def Operand.asElink : Operand → Except DecodeError ElinkId
  | .int n => if h : 0 ≤ n ∧ n < 40 then .ok ⟨n.toNat, by omega⟩ else .error .elinkRange
  | .bytes _ => .error .operandKind
  | .str _ => .error .operandKind

/-- No operand field. -/
def parse0 (k : Instr) : List Operand → Except DecodeError Instr
  | [] => .ok k
  | _ => .error .operandCount

/-- One operand field. -/
def parse1 {α : Type} (p : Operand → Except DecodeError α) (k : α → Instr) : List Operand → Except DecodeError Instr
  | [a] => (p a).map k
  | _ => .error .operandCount

/-- Two operand fields, read in their order. -/
def parse2 {α β : Type} (p : Operand → Except DecodeError α) (q : Operand → Except DecodeError β) (k : α → β → Instr) :
    List Operand → Except DecodeError Instr
  | [a, b] => (p a).bind fun x => (q b).map (k x)
  | _ => .error .operandCount

/-- Three operand fields, read in their order. -/
def parse3 {α β γ : Type} (p : Operand → Except DecodeError α) (q : Operand → Except DecodeError β)
    (r : Operand → Except DecodeError γ) (k : α → β → γ → Instr) : List Operand → Except DecodeError Instr
  | [a, b, c] => (p a).bind fun x => (q b).bind fun y => (r c).map (k x y)
  | _ => .error .operandCount

/-- Four operand fields, read in their order. -/
def parse4 {α β γ δ : Type} (p : Operand → Except DecodeError α) (q : Operand → Except DecodeError β)
    (r : Operand → Except DecodeError γ) (t : Operand → Except DecodeError δ) (k : α → β → γ → δ → Instr) :
    List Operand → Except DecodeError Instr
  | [a, b, c, d] => (p a).bind fun x => (q b).bind fun y => (r c).bind fun z => (t d).map (k x y z)
  | _ => .error .operandCount

/-! ### The decoder -/

/-- The command map of 30_encoding.md R79; every other opcode is illegal (R80). -/
def decodeCommand (c : RawCommand) : Except DecodeError Instr :=
  match c.opcode.toNat with
  | 0x10 => parse2 Operand.asHandle Operand.asInt Instr.bcGet c.operands
  | 0x11 => parse3 Operand.asHandle Operand.asInt Operand.asBit Instr.bcSet c.operands
  | 0x12 => parse2 Operand.asHandle Operand.asBit Instr.bcAppend c.operands
  | 0x13 => parse1 Operand.asHandle Instr.bcClear c.operands
  | 0x14 => parse4 Operand.asHandle Operand.asInt Operand.asInt (Operand.asValue 8) Instr.bcSetr8 c.operands
  | 0x15 => parse4 Operand.asHandle Operand.asInt Operand.asInt (Operand.asValue 16) Instr.bcSetr16 c.operands
  | 0x16 => parse4 Operand.asHandle Operand.asInt Operand.asInt (Operand.asValue 32) Instr.bcSetr32 c.operands
  | 0x17 => parse4 Operand.asHandle Operand.asInt Operand.asInt (Operand.asValue 64) Instr.bcSetr64 c.operands
  | 0x18 => parse3 Operand.asHandle Operand.asInt Operand.asInt Instr.bcUint8 c.operands
  | 0x19 => parse3 Operand.asHandle Operand.asInt Operand.asInt Instr.bcUint16 c.operands
  | 0x1A => parse3 Operand.asHandle Operand.asInt Operand.asInt Instr.bcUint32 c.operands
  | 0x1B => parse3 Operand.asHandle Operand.asInt Operand.asInt Instr.bcUint64 c.operands
  | 0x1C => parse2 Operand.asHandle Operand.asBytes Instr.bcSetbytes c.operands
  | 0x1D => parse2 Operand.asHandle Operand.asHandle Instr.bcSearch c.operands
  | 0x1E => parse3 Operand.asHandle Operand.asHandle Operand.asInt Instr.bcLast c.operands
  | 0x1F => parse2 Operand.asHandle Operand.asInt Instr.bcPrune c.operands
  | 0x20 => parse2 Operand.asHandle Operand.asHandle Instr.bcEqual c.operands
  | 0x21 => parse1 Operand.asHandle Instr.bcCount c.operands
  | 0x22 => parse1 Operand.asHandle Instr.bcLen c.operands
  | 0x23 => parse1 Operand.asHandle Instr.bcStrl c.operands
  | 0x24 => parse1 Operand.asHandle Instr.bcStrr c.operands
  | 0x25 => parse2 Operand.asHandle Operand.asStr Instr.bcFromstr c.operands
  | 0x26 => parse2 Operand.asHandle (Operand.asValue 8) Instr.bcFromu8 c.operands
  | 0x27 => parse2 Operand.asHandle (Operand.asValue 16) Instr.bcFromu16 c.operands
  | 0x28 => parse2 Operand.asHandle (Operand.asValue 32) Instr.bcFromu32 c.operands
  | 0x29 => parse2 Operand.asHandle (Operand.asValue 64) Instr.bcFromu64 c.operands
  | 0x30 => parse0 Instr.rdNextevent c.operands
  | 0x31 => parse0 Instr.rdNextgbt c.operands
  | 0x40 => parse1 Operand.asBytes Instr.dspWord c.operands
  | 0x41 => parse0 Instr.dspClearall c.operands
  | 0x50 => parse3 Operand.asElink Operand.asBit Operand.asBit Instr.elAppend c.operands
  | 0x51 => parse2 Operand.asElink Operand.asBit Instr.elPush c.operands
  | 0x52 => parse1 Operand.asElink Instr.elForceclear c.operands
  | 0x53 => parse1 Operand.asElink Instr.elIsempty c.operands
  | 0x54 => parse1 Operand.asElink Instr.elRead c.operands
  | 0x60 => parse0 Instr.plStep c.operands
  | 0x61 => parse1 Operand.asMask Instr.cfgSetmask c.operands
  | 0x62 => parse0 Instr.cfgGetmask c.operands
  | 0x63 => parse0 Instr.sysStatus c.operands
  | 0x7F => parse1 Operand.asBytes Instr.sysReset c.operands
  | _ => .error .unknownOpcode

/-- The header row an elink in HEADER reads from its 50 bits: PKT selects it, and every PKT value is named
(30_encoding.md R72, R81). -/
def decodeHeader (e : ElinkId) (w : Sdh) : Instr :=
  match (Sdh.pkt w).toNat with
  | 0 => .sdhHeartbeat e (Sdh.fields w)
  | 1 => .sdhDataTruncated e (Sdh.fields w)
  | 2 => .sdhSync e (Sdh.fields w)
  | 3 => .sdhDataTruncatedTriggerTooEarly e (Sdh.fields w)
  | 4 => .sdhData e (Sdh.fields w)
  | 5 => .sdhDataNumwords e (Sdh.fields w)
  | 6 => .sdhDataTriggerTooEarly e (Sdh.fields w)
  | _ => .sdhDataTriggerTooEarlyNumwords e (Sdh.fields w)

/-- Decoding, total: every fetched unit is one instruction or a rejection by name. -/
def decode : Fetched → Except DecodeError Instr
  | .command c => decodeCommand c
  | .hunt e w => if w = syncPattern then .ok (.sdhSyncPatternHuntMatch e) else .error .noSyncMatch
  | .header e w => .ok (decodeHeader e w)

/-! ### The encoder -/

/-- A handle or unsigned operand as a field. -/
def Operand.ofBits {w : Nat} (x : BitVec w) : Operand := .int (x.toNat : Int)

/-- A bit operand as a field. -/
def Operand.ofBit (v : Bool) : Operand := .int (if v then 1 else 0)

/-- An elink number as a field. -/
def Operand.ofElink (e : ElinkId) : Operand := .int (e.val : Int)

/-- The encoding of an instruction: opcode and operand fields of 30_encoding.md R79 for a command, the 50 bits of R70 for a
header row. -/
def encode : Instr → Fetched
  | .bcGet h i => .command ⟨0x10, [.ofBits h, .int i]⟩
  | .bcSet h i v => .command ⟨0x11, [.ofBits h, .int i, .ofBit v]⟩
  | .bcAppend h v => .command ⟨0x12, [.ofBits h, .ofBit v]⟩
  | .bcClear h => .command ⟨0x13, [.ofBits h]⟩
  | .bcSetr8 h a b x => .command ⟨0x14, [.ofBits h, .int a, .int b, .ofBits x]⟩
  | .bcSetr16 h a b x => .command ⟨0x15, [.ofBits h, .int a, .int b, .ofBits x]⟩
  | .bcSetr32 h a b x => .command ⟨0x16, [.ofBits h, .int a, .int b, .ofBits x]⟩
  | .bcSetr64 h a b x => .command ⟨0x17, [.ofBits h, .int a, .int b, .ofBits x]⟩
  | .bcUint8 h a b => .command ⟨0x18, [.ofBits h, .int a, .int b]⟩
  | .bcUint16 h a b => .command ⟨0x19, [.ofBits h, .int a, .int b]⟩
  | .bcUint32 h a b => .command ⟨0x1A, [.ofBits h, .int a, .int b]⟩
  | .bcUint64 h a b => .command ⟨0x1B, [.ofBits h, .int a, .int b]⟩
  | .bcSetbytes h bs => .command ⟨0x1C, [.ofBits h, .bytes bs]⟩
  | .bcSearch h p => .command ⟨0x1D, [.ofBits h, .ofBits p]⟩
  | .bcLast d h n => .command ⟨0x1E, [.ofBits d, .ofBits h, .int n]⟩
  | .bcPrune h n => .command ⟨0x1F, [.ofBits h, .int n]⟩
  | .bcEqual h p => .command ⟨0x20, [.ofBits h, .ofBits p]⟩
  | .bcCount h => .command ⟨0x21, [.ofBits h]⟩
  | .bcLen h => .command ⟨0x22, [.ofBits h]⟩
  | .bcStrl h => .command ⟨0x23, [.ofBits h]⟩
  | .bcStrr h => .command ⟨0x24, [.ofBits h]⟩
  | .bcFromstr h cs => .command ⟨0x25, [.ofBits h, .str cs]⟩
  | .bcFromu8 h x => .command ⟨0x26, [.ofBits h, .ofBits x]⟩
  | .bcFromu16 h x => .command ⟨0x27, [.ofBits h, .ofBits x]⟩
  | .bcFromu32 h x => .command ⟨0x28, [.ofBits h, .ofBits x]⟩
  | .bcFromu64 h x => .command ⟨0x29, [.ofBits h, .ofBits x]⟩
  | .rdNextevent => .command ⟨0x30, []⟩
  | .rdNextgbt => .command ⟨0x31, []⟩
  | .dspWord g => .command ⟨0x40, [.bytes g]⟩
  | .dspClearall => .command ⟨0x41, []⟩
  | .elAppend e v0 v1 => .command ⟨0x50, [.ofElink e, .ofBit v0, .ofBit v1]⟩
  | .elPush e v => .command ⟨0x51, [.ofElink e, .ofBit v]⟩
  | .elForceclear e => .command ⟨0x52, [.ofElink e]⟩
  | .elIsempty e => .command ⟨0x53, [.ofElink e]⟩
  | .elRead e => .command ⟨0x54, [.ofElink e]⟩
  | .plStep => .command ⟨0x60, []⟩
  | .cfgSetmask m => .command ⟨0x61, [.ofBits m]⟩
  | .cfgGetmask => .command ⟨0x62, []⟩
  | .sysStatus => .command ⟨0x63, []⟩
  | .sysReset src => .command ⟨0x7F, [.bytes src]⟩
  | .sdhHeartbeat e f => .header e (Sdh.pack 0 f)
  | .sdhDataTruncated e f => .header e (Sdh.pack 1 f)
  | .sdhSync e f => .header e (Sdh.pack 2 f)
  | .sdhDataTruncatedTriggerTooEarly e f => .header e (Sdh.pack 3 f)
  | .sdhData e f => .header e (Sdh.pack 4 f)
  | .sdhDataNumwords e f => .header e (Sdh.pack 5 f)
  | .sdhDataTriggerTooEarly e f => .header e (Sdh.pack 6 f)
  | .sdhDataTriggerTooEarlyNumwords e f => .header e (Sdh.pack 7 f)
  | .sdhSyncPatternHuntMatch e => .hunt e syncPattern

/-! ### The words of spec/opcode_table.json -/

/-- The operand fields of a command whose operands are all zero: the opcode's operand kinds (30_encoding.md R79), the number 0,
the empty byte sequence or the empty string for each (log 6). -/
def zeroOperands (opcode : BitVec 8) : List Operand :=
  match opcode.toNat with
  | 0x14 | 0x15 | 0x16 | 0x17 => [.int 0, .int 0, .int 0, .int 0]
  | 0x11 | 0x18 | 0x19 | 0x1A | 0x1B | 0x1E | 0x50 => [.int 0, .int 0, .int 0]
  | 0x10 | 0x12 | 0x1D | 0x1F | 0x20 | 0x26 | 0x27 | 0x28 | 0x29 | 0x51 => [.int 0, .int 0]
  | 0x13 | 0x21 | 0x22 | 0x23 | 0x24 | 0x52 | 0x53 | 0x54 | 0x61 => [.int 0]
  | 0x1C => [.int 0, .bytes []]
  | 0x25 => [.int 0, .str []]
  | 0x40 | 0x7F => [.bytes []]
  | _ => []

/-- The fetched unit that `nbits` bits `w` of an opcode-table row stand for: up to 8 bits are a command's opcode with operand
fields of zeros; more are a 50-bit header word on elink 0, taken as a HUNT window exactly when it is the sync pattern
(the table's last row overlaps its PKT 2 row: log 10). -/
def tableWord (nbits w : Nat) : Fetched :=
  if nbits ≤ 8 then .command ⟨BitVec.ofNat 8 w, zeroOperands (BitVec.ofNat 8 w)⟩
  else if BitVec.ofNat 50 w = syncPattern then .hunt 0 (BitVec.ofNat 50 w)
  else .header 0 (BitVec.ofNat 50 w)

/-- The instruction the decoder reads from a word of spec/opcode_table.json. -/
def decodeTableWord (nbits w : Nat) : Option Instr :=
  (decode (tableWord nbits w)).toOption

end Sys2Proof
end

