-- ==== Sys2Proof/Machine/State.lean ====
section
/-! DEFINITION. The state of the block (10_state.md R22), as plain data, with the model's own fields (R47, R154), the reasons a
command can stop, and reset (70_reset_and_hazards.md R175). -/

namespace Sys2Proof.Machine

/-- A bit container (10_state.md R40): its length, its hidden capacity (R41), and its bits `c[k]`, held as the rising list of
the indices that hold a 1. Every other bit is 0, so "zero beyond length" says that each listed index is below `len` (log 12). -/
structure Container where
  len : Nat
  cap : Nat
  ones : List Nat
  deriving DecidableEq, Repr

/-- The empty container of a given capacity (R42, R35). -/
def Container.empty (cap : Nat) : Container := { len := 0, cap := cap, ones := [] }

/-- The canonical form of a container: rising indices, zero beyond length, length within capacity (R40). -/
abbrev Container.WF (c : Container) : Prop :=
  c.ones.Pairwise (· < ·) ∧ (∀ k ∈ c.ones, k < c.len) ∧ c.len ≤ c.cap

/-- A cluster: a 10-bit timestamp and 10-bit samples (R43). -/
structure Cluster where
  ts : Word10
  samples : List Word10
  deriving DecidableEq, Repr

/-- A packet: its header, the elink it came from, its clusters (R43). -/
structure Packet where
  sdh : Sdh
  elinkId : ElinkId
  clusters : List Cluster
  deriving DecidableEq, Repr

/-- The bank of one elink (R35). Its `id` is the bank's position (log 16). -/
structure Elink where
  /-- "growable bit string" -/
  bits : Container
  /-- "next bit-length at which `bits` must be examined" -/
  checkpoint : Nat
  /-- "whether the elink is currently accumulating a data payload" -/
  indata : Bool
  /-- "number of sync patterns seen; 0 means hunting" -/
  nsync : Nat
  /-- "last recognized header" -/
  sdh : Sdh
  deriving DecidableEq, Repr

/-- An elink bank after reset (R35, R45). -/
def Elink.reset (cap : Nat) : Elink :=
  { bits := Container.empty cap, checkpoint := 50, indata := false, nsync := 0, sdh := 0 }

/-- The reader's position in the frame cycle (R28). -/
inductive RdPhase where
  | needEvent
  | loaded
  | inEvent
  deriving DecidableEq, Repr

/-- The fatal codes of 60_exceptions.md R159. -/
inductive FatalCode where
  | badMagic
  | shortHeader
  | shortPayload
  | badEventSize
  | payloadTooLarge
  | equipmentSizeMismatch
  | syncPktMismatch
  | syncPatternMismatch
  | checkpointMismatch
  | elinkStateInconsistent
  | payloadOverrun
  | containerRange
  | containerWidth
  | containerCapacity
  | containerEmptyPattern
  | containerBadChar
  | illegalCommand
  deriving DecidableEq, Repr

/-- The statuses of 60_exceptions.md R157. -/
inductive Status where
  | ok
  | eof
  | errEmptyEvent
  | errInvalidSop
  | errEndOfEvent
  | errIncorrectSize
  | notFound
  | refused
  deriving DecidableEq, Repr

/-- The results a command returns beside its status (30_encoding.md R79, the column "results"). -/
inductive Results where
  /-- Nothing but the status. -/
  | nothing
  /-- A bit: `BC.GET`, `BC.EQUAL`, `EL.ISEMPTY`. -/
  | bit (b : Bool)
  /-- A natural: `BC.SEARCH`, `BC.COUNT`, `BC.LEN`. -/
  | nat (n : Nat)
  | u8 (x : BitVec 8)
  | u16 (x : BitVec 16)
  | u32 (x : BitVec 32)
  | u64 (x : BitVec 64)
  /-- A string: `BC.STRL`, `BC.STRR`. -/
  | string (cs : List Char)
  /-- The Event of `RD.NEXTEVENT`, a copy and no view of the buffer (41_frame_reader.md R111, 70_reset_and_hazards.md R181). -/
  | event (header payload : List Byte) (size : Nat)
  /-- The 10 bytes of `RD.NEXTGBT`. -/
  | gbt (g : List Byte)
  /-- The packets of one `DSP.WORD`. -/
  | packets (ps : List Packet)
  /-- The packet of an elink, or none: `EL.PUSH`, `EL.APPEND`, a header row. -/
  | packet (p : Option Packet)
  /-- `EL.READ`: state, nsync, indata, checkpoint, length, sdh (44_elink.md R144). -/
  | bank (state nsync : Nat) (indata : Bool) (checkpoint length : Nat) (sdh : Sdh)
  /-- `CFG.GETMASK`. -/
  | mask (m : BitVec 40)
  /-- `SYS.STATUS`: fault code, halted, phase code, events_read, gbt_words, length of the output queue (45_pipeline.md R153). -/
  | sysStatus (fault : Nat) (halted : Bool) (phase eventsRead gbtWords outLength : Nat)
  deriving DecidableEq, Repr

/-- How the last command ended (00_scope.md R17): it returned, or it raised a fatal and "returns nothing but the fault"
(60_exceptions.md R160). `unanswered` stands before the first command (log 5). -/
inductive Answer where
  | unanswered
  | returned (st : Status) (r : Results)
  | fatal (c : FatalCode)
  deriving DecidableEq, Repr

/-- What the host does between commands (45_pipeline.md R154): issue a command (`SYS.RESET` among them), or drain a packet. -/
inductive HostAction where
  | issue (c : RawCommand)
  | drain
  deriving DecidableEq, Repr

/-- The payload buffer: pairs of offset and byte, offsets rising, no byte that is 0 (what an unlisted offset reads as: log 3). -/
abbrev Memory := List Host.Cell

/-- The canonical form of the payload buffer. -/
abbrev Memory.wf (m : Memory) : Prop :=
  m.Pairwise (fun a b => a.1 < b.1) ∧ ∀ c ∈ m, c.2 ≠ 0

/-- Why the block could stop with no next state: never. A command always ends in an answer, and a fatal is recorded in the state
(00_scope.md R17, 60_exceptions.md R160), so there is no constructor; safe. -/
inductive Fault where
  deriving DecidableEq, Repr

/-- Why an instruction could have no meaning. -/
inductive Refusal where
  /-- An instruction without a meaning; raised by `exec`'s refused arms only, of which this model has none; safe. -/
  | notModelled (mnemonic : String)
  deriving DecidableEq, Repr

/-- The state: the record `S` of 10_state.md R22, then the model's own fields. -/
structure State where
  /-- The first fatal the block met (R23). -/
  fault : Option FatalCode
  /-- Set by `PL.STEP` at EOF (R24). -/
  halted : Bool
  /-- The mask of elinks to skip (R25). -/
  mask : BitVec 40
  /-- The byte source (R27). -/
  src : List Byte
  /-- Bytes of the source consumed (R27). -/
  inPos : Nat
  /-- The reader's phase (R28). -/
  rdPhase : RdPhase
  /-- A header read found the source exhausted (R29). -/
  rdEof : Bool
  /-- The last DATE header read (R30). -/
  hdr : Vector Byte 80
  /-- The payload buffer (R31). -/
  payload : Memory
  /-- Valid bytes of the payload (R32). -/
  size : Nat
  /-- Offset of the next GBT window (R33). -/
  gbtPos : Nat
  /-- Events returned (R34). -/
  eventsRead : Nat
  /-- GBT words returned (R34). -/
  gbtWords : Nat
  /-- The elink banks `E[0..39]` (R35). -/
  elinks : Vector Elink 40
  /-- The scratch containers `T[0 .. NUM_SCRATCH-1]` (R42). -/
  scratch : List Container
  /-- The output queue, its head first (R44). -/
  out : List Packet
  /-- The parameters of the run (00_scope.md R10); no step writes them (R26, log 2). -/
  config : Config
  /-- The host's coming actions, the next one first (R47, R154; log 1). -/
  pending : List HostAction
  /-- What the last command answered (R154; log 5). -/
  result : Answer
  /-- The packets the host has drained, the first one first (R154, R155; log 5). -/
  drained : List Packet
  deriving DecidableEq, Repr

/-- The state `SYS.RESET src` produces under the parameters `cfg` (70_reset_and_hazards.md R175, 10_state.md R45).
`hdr` and `payload` are zero, which R177 allows (DESIGN CHOICE, log 3). -/
def State.resetWith (cfg : Config) (src : List Byte) : State where
  fault := none
  halted := false
  mask := 0
  src := src
  inPos := 0
  rdPhase := .needEvent
  rdEof := false
  hdr := Vector.replicate 80 0
  payload := []
  size := 0
  gbtPos := 0
  eventsRead := 0
  gbtWords := 0
  elinks := Vector.replicate 40 (Elink.reset cfg.elinkInitCapacityBits)
  scratch := List.replicate cfg.numScratch (Container.empty cfg.scratchInitCapacityBits)
  out := []
  config := cfg
  pending := []
  result := .unanswered
  drained := []

/-- The machine right after reset (R176), with the parameters of `Config.chip` and an empty byte source (DESIGN CHOICE,
log 4: the source comes from the host, with `SYS.RESET src`). -/
def State.reset : State := State.resetWith Config.chip []

end Sys2Proof.Machine
end

