-- ==== Sys2Proof/Machine/Container.lean ====
section
/-! DEFINITION. The bit-container operations on plain containers (40_bit_container.md): reading and writing bits, growth, slices,
search and the read-outs. The commands over them are in Machine/BitContainer.lean. -/

namespace Sys2Proof.Machine

/-- `c[k]` for every natural `k` (10_state.md R40). -/
def Container.bit (c : Container) (k : Nat) : Bool := c.ones.contains k

/-- `Σ_{k < n} f k · 2^k`: the integer whose bit `k` is `f k` (30_encoding.md R75, 20_memory.md R52). -/
def bitsValue (f : Nat → Bool) : Nat → Nat
  | 0 => 0
  | n + 1 => bitsValue f n + if f n then 2 ^ n else 0

/-- `Σ_{k < n} c[a + k] · 2^k` (40_bit_container.md R92). -/
def Container.slice (c : Container) (a n : Nat) : Nat := bitsValue (fun k => c.bit (a + k)) n

/-- The loop `while newcap < need: newcap <- 2 * newcap` of 40_bit_container.md R84, `fuel` doublings at most. -/
def doubledCapacity : Nat → Nat → Nat → Nat
  | 0, cap, _ => cap
  | fuel + 1, cap, need => if cap < need then doubledCapacity fuel (2 * cap) need else cap

/-- `grow(c, need)` of 40_bit_container.md R84: `none` is its `raise Fatal(CONTAINER_CAPACITY)`. A capacity of at least 1
reaches `need` within `log2 need + 1` doublings; a capacity of 0, which no container has (R84), is refused here (log 11). -/
def Container.grow (max : Nat) (c : Container) (need : Nat) : Option Container :=
  if need ≤ c.cap then some c
  else
    let newcap := doubledCapacity (need.log2 + 1) c.cap need
    if newcap < need ∨ max < newcap then none else some { c with cap := newcap }

/-- The indices `a + k` with `k < n` and `f k`. -/
def onesFrom (a n : Nat) (f : Nat → Bool) : List Nat := ((List.range n).filter f).map (a + ·)

/-- `c[a + k] <- f k` for `k < n`, then `c.len <- max(c.len, a + n)`; a gap reads as 0 (40_bit_container.md R85, R88, R91).
The capacity is `grow`'s business. -/
def Container.write (c : Container) (a n : Nat) (f : Nat → Bool) : Container :=
  { c with
    len := max c.len (a + n)
    ones := c.ones.filter (· < a) ++ onesFrom a n f ++ c.ones.filter (a + n ≤ ·) }

/-- `c[i] <- v; c.len <- max(c.len, i + 1)` (40_bit_container.md R88). -/
def Container.set (c : Container) (i : Nat) (v : Bool) : Container := c.write i 1 (fun _ => v)

/-- `c.len <- n; c[k] <- f k for k < n; c[j] <- 0 for j >= n` (40_bit_container.md R93, R94, R95). -/
def Container.fill (c : Container) (n : Nat) (f : Nat → Bool) : Container :=
  { c with len := n, ones := onesFrom 0 n f }

/-- `c.len <- 0; c[k] <- 0 for all k`, the capacity unchanged (40_bit_container.md R90). -/
def Container.clear (c : Container) : Container := { c with len := 0, ones := [] }

/-- The indices of the ones from index `n` on, counted from `n`. -/
def Container.onesAfter (c : Container) (n : Nat) : List Nat := (c.ones.filter (n ≤ ·)).map (· - n)

/-- Drop the first `n` bits (40_bit_container.md R98). -/
def Container.prune (c : Container) (n : Nat) : Container :=
  { c with len := c.len - n, ones := c.onesAfter n }

/-- `t` holding the last `n` bits of `c` (40_bit_container.md R97). -/
def Container.takeLast (t c : Container) (n : Nat) : Container :=
  { t with len := n, ones := c.onesAfter (c.len - n) }

/-- Bit `k` of a byte sequence: bit `8 i + j` is bit `j` of byte `i` (40_bit_container.md R93, 20_memory.md R51). -/
def bytesBit (bs : List Byte) (k : Nat) : Bool := (bs.getD (k / 8) 0).getLsbD (k % 8)

/-- Bit `k` of a string of `'0'` and `'1'` (40_bit_container.md R94). -/
def stringBit (cs : List Char) (k : Nat) : Bool := cs.getD k '0' == '1'

/-- `c[i + k] = q[k]` for every `k < q.len` (40_bit_container.md R96). -/
def Container.matchesAt (c q : Container) (i : Nat) : Bool :=
  (List.range q.len).all fun k => c.bit (i + k) == q.bit k

/-- The smallest `i` in `0 .. c.len - q.len` at which `q` stands in `c` (40_bit_container.md R96). -/
def Container.search (c q : Container) : Option Nat :=
  (List.range (c.len + 1 - q.len)).find? (c.matchesAt q)

/-- `c.len = q.len` and `c[k] = q[k]` for all `k < c.len` (40_bit_container.md R99). -/
def Container.same (c q : Container) : Bool := c.len == q.len && c.matchesAt q 0

/-- `Σ_{k < c.len} c[k]` (40_bit_container.md R100). -/
def Container.count (c : Container) : Nat := (List.range c.len).countP c.bit

/-- The character that spells a bit (40_bit_container.md R102). -/
def bitChar (b : Bool) : Char := if b then '1' else '0'

/-- The container spelled in index order, `to_string_lsb_left` (40_bit_container.md R102). -/
def Container.spellLeft (c : Container) : List Char := (List.range c.len).map fun k => bitChar (c.bit k)

/-- The container spelled in reverse index order, `to_string_lsb_right` (40_bit_container.md R103). -/
def Container.spellRight (c : Container) : List Char :=
  (List.range c.len).map fun k => bitChar (c.bit (c.len - 1 - k))

/-- The SDH value of the last 50 bits, `Σ_{k<50} c[c.len - 50 + k] · 2^k` (30_encoding.md R71). -/
def Container.last50 (c : Container) : Sdh := BitVec.ofNat 50 (c.slice (c.len - 50) 50)

/-- `split10`: the whole 10-bit words from index 0 on, each one's least significant bit at its group's start
(44_elink.md R140). -/
def Container.split10 (c : Container) : List Word10 :=
  (List.range (c.len / 10)).map fun k => BitVec.ofNat 10 (c.slice (10 * k) 10)

end Sys2Proof.Machine
end

