-- ==== Sys2Proof/Machine/Ops.lean ====
section
/-! DEFINITION. The shared operations: how a command runs and ends (raising a fatal and refusing among them), the named updates
of the state, the byte source, and the payload buffer. -/

namespace Sys2Proof.Machine

/-! ### Named updates of the state -/

/-- Record what a command answered (log 5). -/
def State.withResult (s : State) (r : Answer) : State := { s with result := r }
/-- `S.fault <- code`. -/
def State.withFault (s : State) (c : FatalCode) : State := { s with fault := some c }
/-- `S.halted <- true`. -/
def State.halt (s : State) : State := { s with halted := true }
/-- `S.mask <- m`. -/
def State.withMask (s : State) (m : BitVec 40) : State := { s with mask := m }
/-- `S.in_pos <- n`. -/
def State.withInPos (s : State) (n : Nat) : State := { s with inPos := n }
/-- `S.rd_phase <- p`. -/
def State.withPhase (s : State) (p : RdPhase) : State := { s with rdPhase := p }
/-- `S.rd_eof <- true`. -/
def State.endSource (s : State) : State := { s with rdEof := true }
/-- The header register's value for the 80 bytes of a complete header read. -/
def headerRegister (hb : List Byte) : Vector Byte 80 := Vector.ofFn fun i => hb.getD i.val 0
/-- `S.hdr <- v`. -/
def State.withHdr (s : State) (v : Vector Byte 80) : State := { s with hdr := v }
/-- The payload buffer replaced. -/
def State.withPayload (s : State) (m : Memory) : State := { s with payload := m }
/-- `S.size <- n`. -/
def State.withSize (s : State) (n : Nat) : State := { s with size := n }
/-- `S.gbt_pos <- n`. -/
def State.withGbtPos (s : State) (n : Nat) : State := { s with gbtPos := n }
/-- `S.events_read <- S.events_read + 1`. -/
def State.countEvent (s : State) : State := { s with eventsRead := s.eventsRead + 1 }
/-- `S.gbt_words <- S.gbt_words + 1`. -/
def State.countGbt (s : State) : State := { s with gbtWords := s.gbtWords + 1 }
/-- The bank `E[e]`. -/
def State.elink (s : State) (e : ElinkId) : Elink := s.elinks[e.val]
/-- `E[e] <- b`. -/
def State.withElink (s : State) (e : ElinkId) (b : Elink) : State := { s with elinks := s.elinks.set e.val b }
/-- `T[k] <- c`. -/
def State.withScratch (s : State) (k : Nat) (c : Container) : State := { s with scratch := s.scratch.set k c }
/-- `emit(p)`: append `p` at the tail of the output queue (10_state.md R44). -/
def State.emit (s : State) (p : Packet) : State := { s with out := s.out ++ [p] }
/-- The host's coming actions replaced (log 1). -/
def State.withPending (s : State) (l : List HostAction) : State := { s with pending := l }

/-! ### How a command runs and ends -/

/-- A command's body, or a part of it, run to its end: it comes to a value in a state, or a fatal stops it there
(00_scope.md R17, R18). -/
inductive Run (α : Type) where
  | done (a : α) (s : State)
  | fatal (c : FatalCode) (s : State)

/-- One part after another; a fatal of the first stops the command (60_exceptions.md R160). -/
def Run.bind {α β : Type} (x : Run α) (f : α → State → Run β) : Run β :=
  match x with
  | .done a s => f a s
  | .fatal c s => .fatal c s

/-- The value of a part, seen as another. -/
def Run.map {α β : Type} (g : α → β) (x : Run α) : Run β := x.bind fun a s => .done (g a) s

/-- TAKING A FATAL, `raise Fatal(code)` (60_exceptions.md R160): `S.fault <- code` is the whole entry (R165); what the command
wrote before stays. There is no return from it but `SYS.RESET` (R166). -/
def raise {α : Type} (c : FatalCode) (s : State) : Run α := .fatal c (s.withFault c)

/-- The end of a command: the state it left, with what it answered (45_pipeline.md R154). -/
def finish : Run Answer → Host.Outcome State Fault Refusal
  | .done r s => .next (s.withResult r)
  | .fatal c s => .next (s.withResult (.fatal c))

/-- `refuse("faulted")` (60_exceptions.md R162): status `REFUSED` and no change to the block. -/
def refuse (s : State) : Host.Outcome State Fault Refusal := .next (s.withResult (.returned .refused .nothing))

/-- A command other than `SYS.STATUS` and `SYS.RESET`: refused on a faulted block, else its body run to its end
(60_exceptions.md R161). -/
def command (s : State) (body : State → Run Answer) : Host.Outcome State Fault Refusal :=
  match s.fault with
  | some _ => refuse s
  | none => finish (body s)

/-- `return (OK, results)`. -/
def ok (r : Results) : Answer := .returned .ok r

/-! ### The byte source -/

/-- `StreamRead(n)`: the next `min(n, avail)` bytes, and the position past them (20_memory.md R49). -/
def streamRead (n : Nat) (s : State) : List Byte × State :=
  let bs := (s.src.drop s.inPos).take n
  (bs, s.withInPos (s.inPos + bs.length))

/-! ### The payload buffer -/

/-- The byte at an offset; an unlisted offset reads as 0 (10_state.md R31, 70_reset_and_hazards.md R177, log 3). -/
def Memory.read (m : Memory) (a : Nat) : Byte := (m.lookup a).getD 0

/-- The cells of bytes stored from offset `o` on, those that are 0 left out. -/
def cellsFrom (o : Nat) : List Byte → Memory
  | [] => []
  | b :: bs => if b = 0 then cellsFrom (o + 1) bs else (o, b) :: cellsFrom (o + 1) bs

/-- `MemWrite(o, n, v)`: the bytes `bs` at offsets `o .. o + |bs|` (00_scope.md R15). -/
def Memory.write (m : Memory) (o : Nat) (bs : List Byte) : Memory :=
  m.filter (·.1 < o) ++ cellsFrom o bs ++ m.filter (o + bs.length ≤ ·.1)

/-- `MemRead(o, n)`: the bytes at offsets `o .. o + n` (00_scope.md R15). -/
def Memory.readBytes (m : Memory) (o n : Nat) : List Byte := (List.range n).map fun k => m.read (o + k)

end Sys2Proof.Machine
end

