-- ==== Sys2Proof/Machine/Operands.lean ====
section
/-! DEFINITION. The operand forms: container handles resolved (40_bit_container.md R83), little-endian fields (00_scope.md R15,
20_memory.md R50), the framing formats (30_encoding.md R65 - R69), the 80-bit GBT word (20_memory.md R53), and the numeric codes
of statuses, fatals and phases. -/

namespace Sys2Proof.Machine

/-! ### Handles -/

/-- The index `k` of the scratch container a handle `64 + k` names, `k < NUM_SCRATCH` (30_encoding.md R78). -/
def State.scratchIndex (s : State) (h : Handle) : Option Nat :=
  if 64 ≤ h.toNat ∧ h.toNat < 64 + s.config.numScratch then some (h.toNat - 64) else none

/-- `resolve_w(h)`: the index and the container a handle names for writing; an elink's handle names none
(40_bit_container.md R83, 30_encoding.md R78). -/
def State.resolveW (s : State) (h : Handle) : Option (Nat × Container) :=
  (s.scratchIndex h).bind fun k => (s.scratch[k]?).map fun c => (k, c)

/-- `resolve_r(h)`: the container a handle names for reading (40_bit_container.md R83, 30_encoding.md R78). -/
def State.resolveR (s : State) (h : Handle) : Option Container :=
  if he : h.toNat < 40 then some (s.elink ⟨h.toNat, he⟩).bits else (s.resolveW h).map (·.2)

/-- Go on with a readable container, or raise `ILLEGAL_COMMAND` (40_bit_container.md R83). -/
def reading (s : State) (h : Handle) (k : Container → Run Answer) : Run Answer :=
  match s.resolveR h with
  | some c => k c
  | none => raise .illegalCommand s

/-- Go on with a writable container, or raise `ILLEGAL_COMMAND` (40_bit_container.md R83). -/
def writing (s : State) (h : Handle) (k : Nat → Container → Run Answer) : Run Answer :=
  match s.resolveW h with
  | some (j, c) => k j c
  | none => raise .illegalCommand s

/-- The last check of a writing command and its write: `grow` to `need` bits, or `CONTAINER_CAPACITY` with nothing written; then
`T[j]` becomes `w` of the grown container (40_bit_container.md R84, R86). -/
def growAndWrite (s : State) (j : Nat) (c : Container) (need : Nat) (w : Container → Container) : Run Answer :=
  match c.grow s.config.maxCapacityBits need with
  | some c' => .done (ok .nothing) (s.withScratch j (w c'))
  | none => raise .containerCapacity s

/-! ### Little-endian fields -/

/-- `u32le(B, o)` of bytes read through `rd` (00_scope.md R15). -/
def u32le (rd : Nat → Byte) (o : Nat) : BitVec 32 := rd (o + 3) ++ rd (o + 2) ++ rd (o + 1) ++ rd o

/-- `u64le(B, o)` (00_scope.md R15). -/
def u64le (rd : Nat → Byte) (o : Nat) : BitVec 64 := u32le rd (o + 4) ++ u32le rd o

/-- Byte `o` of a byte sequence. -/
def byteAt (bs : List Byte) (o : Nat) : Byte := bs.getD o 0

/-! ### The framing formats -/

/-- The decoded DATE header (30_encoding.md R65). Only `eventSize` and `eventMagic` are checked by the block. -/
structure DateHeader where
  eventSize : BitVec 32
  eventMagic : BitVec 32
  headerSize : BitVec 32
  version : BitVec 32
  eventType : BitVec 32
  runNumber : BitVec 32
  eventId : BitVec 64
  trigger0 : BitVec 64
  trigger1 : BitVec 64
  detectors : BitVec 32
  attributes0 : BitVec 32
  attributes1 : BitVec 32
  attributes2 : BitVec 32
  ldc : BitVec 32
  gdc : BitVec 32
  timeStampSec : BitVec 32
  timeStampMicroSec : BitVec 32
  deriving DecidableEq, Repr

/-- The fields of an 80-byte header, each at its offset (30_encoding.md R65). -/
def dateHeader (hb : List Byte) : DateHeader where
  eventSize := u32le (byteAt hb) 0
  eventMagic := u32le (byteAt hb) 4
  headerSize := u32le (byteAt hb) 8
  version := u32le (byteAt hb) 12
  eventType := u32le (byteAt hb) 16
  runNumber := u32le (byteAt hb) 20
  eventId := u64le (byteAt hb) 24
  trigger0 := u64le (byteAt hb) 32
  trigger1 := u64le (byteAt hb) 40
  detectors := u32le (byteAt hb) 48
  attributes0 := u32le (byteAt hb) 52
  attributes1 := u32le (byteAt hb) 56
  attributes2 := u32le (byteAt hb) 60
  ldc := u32le (byteAt hb) 64
  gdc := u32le (byteAt hb) 68
  timeStampSec := u32le (byteAt hb) 72
  timeStampMicroSec := u32le (byteAt hb) 76

/-- The header register, decoded (10_state.md R30). -/
def State.dateHeader (s : State) : DateHeader := Machine.dateHeader s.hdr.toList

/-- The equipment sub-header at the start of the payload (30_encoding.md R66). Only `size` is checked by the block. -/
structure EquipmentHeader where
  size : BitVec 32
  type : BitVec 32
  id : BitVec 32
  attributes0 : BitVec 32
  attributes1 : BitVec 32
  attributes2 : BitVec 32
  elemSize : BitVec 32
  deriving DecidableEq, Repr

/-- The equipment sub-header's fields, each at its payload offset (30_encoding.md R66). -/
def equipmentHeader (m : Memory) : EquipmentHeader where
  size := u32le m.read 0
  type := u32le m.read 4
  id := u32le m.read 8
  attributes0 := u32le m.read 12
  attributes1 := u32le m.read 16
  attributes2 := u32le m.read 20
  elemSize := u32le m.read 24

/-- The magic every DATE header carries (41_frame_reader.md R106). -/
def eventMagic : BitVec 32 := 0xDA1E5AFE#32

/-- `sop_ok()` (42_gbt_extractor.md R115; the u32 reading of 90_conflicts.md C5). -/
def sopOk (m : Memory) (size : Nat) : Bool :=
  decide (44 ≤ size) && u32le m.read 28 == 0#32 && u32le m.read 32 == 0#32 && u32le m.read 36 == 0#32 &&
    u32le m.read 40 == 1#32

/-- `reshuffle(d)`: the GBT word of a 16-byte window (42_gbt_extractor.md R116, 30_encoding.md R68, R69). -/
def reshuffle (d : List Byte) : List Byte :=
  (d.drop 12).take 4 ++ (d.drop 8).take 4 ++ (d.drop 4).take 2

/-- The 80-bit value of a GBT word: bit `8 i + k` is bit `k` of byte `g[i]` (20_memory.md R53). -/
def gbtValue (g : List Byte) : BitVec 80 := BitVec.ofNat 80 (bitsValue (bytesBit g) 80)

/-! ### Numeric codes -/

/-- The code of a status (60_exceptions.md R157). -/
def Status.code : Status → Nat
  | .ok => 0
  | .eof => 1
  | .errEmptyEvent => 2
  | .errInvalidSop => 3
  | .errEndOfEvent => 4
  | .errIncorrectSize => 5
  | .notFound => 6
  | .refused => 7

/-- The code of a fatal (60_exceptions.md R159). -/
def FatalCode.code : FatalCode → Nat
  | .badMagic => 0x10
  | .shortHeader => 0x11
  | .shortPayload => 0x12
  | .badEventSize => 0x13
  | .payloadTooLarge => 0x14
  | .equipmentSizeMismatch => 0x15
  | .syncPktMismatch => 0x20
  | .syncPatternMismatch => 0x21
  | .checkpointMismatch => 0x22
  | .elinkStateInconsistent => 0x23
  | .payloadOverrun => 0x24
  | .containerRange => 0x30
  | .containerWidth => 0x31
  | .containerCapacity => 0x32
  | .containerEmptyPattern => 0x33
  | .containerBadChar => 0x34
  | .illegalCommand => 0x3F

/-- `S.fault` as `SYS.STATUS` codes it: 0 for none (45_pipeline.md R153). -/
def faultCode : Option FatalCode → Nat
  | none => 0
  | some c => c.code

/-- `S.rd_phase` as `SYS.STATUS` codes it (45_pipeline.md R153). -/
def RdPhase.code : RdPhase → Nat
  | .needEvent => 0
  | .loaded => 1
  | .inEvent => 2

end Sys2Proof.Machine
end

