-- ==== Sys2Proof/Machine/Flags.lean ====
section
/-! DEFINITION. The flags. The block has no condition flags (40_bit_container.md preamble); its flags are each elink's `indata`
and `nsync`, from which its state HUNT, HEADER or DATA is computed (10_state.md R37), and their writes (R38). -/

namespace Sys2Proof.Machine

/-- The `State` enum of an elink (10_state.md R37). -/
inductive ElinkState where
  | hunt
  | header
  | data
  deriving DecidableEq, Repr

/-- The elink's state as a function of its flags (10_state.md R37). -/
def Elink.state (b : Elink) : ElinkState :=
  if b.indata then .data else if b.nsync = 0 then .hunt else .header

/-- The code `EL.READ` gives the state (44_elink.md R144). -/
def ElinkState.code : ElinkState → Nat
  | .hunt => 0
  | .header => 1
  | .data => 2

/-- `clear(); E[e].checkpoint <- cp` (44_elink.md preamble). -/
def Elink.rearm (b : Elink) (cp : Nat) : Elink := { b with bits := b.bits.clear, checkpoint := cp }

/-- `E[e].sdh <- h`. -/
def Elink.withSdh (b : Elink) (h : Sdh) : Elink := { b with sdh := h }

/-- Sync acquisition: `sdh <- cand; clear(); checkpoint <- 50; nsync <- 1` (44_elink.md R131). -/
def Elink.acquire (b : Elink) (cand : Sdh) : Elink := { (b.withSdh cand).rearm 50 with nsync := 1 }

/-- A failed HUNT compare: `checkpoint <- checkpoint + 1` (44_elink.md R131). -/
def Elink.slide (b : Elink) : Elink := { b with checkpoint := b.checkpoint + 1 }

/-- A Sync header: `nsync <- nsync + 1; clear(); checkpoint <- 50` (44_elink.md R135). -/
def Elink.countSync (b : Elink) : Elink := { b.rearm 50 with nsync := b.nsync + 1 }

/-- Into DATA: `clear(); checkpoint <- 10 * nw; indata <- true` (44_elink.md R134). -/
def Elink.enterData (b : Elink) (nw : Nat) : Elink := { b.rearm (10 * nw) with indata := true }

/-- Out of DATA: `clear(); checkpoint <- 50; indata <- false` (44_elink.md R139). -/
def Elink.leaveData (b : Elink) : Elink := { b.rearm 50 with indata := false }

/-- `force_clear`: `nsync <- 0; clear(); checkpoint <- 50; indata <- false`; `sdh` stays (44_elink.md R142). -/
def Elink.forceClear (b : Elink) : Elink := { b.rearm 50 with nsync := 0, indata := false }

end Sys2Proof.Machine
end

