-- ==== Sys2Proof/Machine/BitContainer.lean ====
section
/-! DEFINITION. The bit-container commands `BC.*` (40_bit_container.md R87 - R103). Each body checks in the order of R86: handles,
range, width, characters, empty pattern, capacity. -/

namespace Sys2Proof.Machine

/-! ### Shared bodies -/

/-- The body of `BC.SET h, i, v` (40_bit_container.md R88). -/
def setBit (s : State) (j : Nat) (c : Container) (i : Int) (v : Bool) : Run Answer :=
  if i < 0 then raise .containerRange s
  else growAndWrite s j c (i.toNat + 1) (·.set i.toNat v)

/-- The body of `BC.SETR<W> h, a, b, x` (40_bit_container.md R91). -/
def setRange (w : Nat) (h : Handle) (a b : Int) (x : BitVec w) (s : State) : Run Answer :=
  writing s h fun j c =>
    if a < 0 ∨ b < a then raise .containerRange s
    else if (w : Int) ≤ b - a then raise .containerWidth s
    else growAndWrite s j c (b.toNat + 1) (·.write a.toNat ((b - a).toNat + 1) x.getLsbD)

/-- The body of `BC.UINT<W> h, a, b` (40_bit_container.md R92): a negative `b` means `length - 1`. -/
def uintRange (w : Nat) (h : Handle) (a b : Int) (s : State) (k : BitVec w → Results) : Run Answer :=
  reading s h fun c =>
    let b' : Int := if b < 0 then (c.len : Int) - 1 else b
    if a < 0 ∨ b' < a ∨ (c.len : Int) ≤ b' then raise .containerRange s
    else if (w : Int) ≤ b' - a then raise .containerWidth s
    else .done (ok (k (BitVec.ofNat w (c.slice a.toNat ((b' - a).toNat + 1))))) s

/-- Replace the content of a container by `n` bits (40_bit_container.md R93, R94, R95). -/
def replaceContent (s : State) (j : Nat) (c : Container) (n : Nat) (f : Nat → Bool) : Run Answer :=
  growAndWrite s j c n (·.fill n f)

/-- The body of `BC.FROMU<W> h, x` (40_bit_container.md R95): the length is `W` whatever the value. -/
def fromUint (w : Nat) (h : Handle) (x : BitVec w) (s : State) : Run Answer :=
  writing s h fun j c => replaceContent s j c w x.getLsbD

/-! ### The commands -/

/-- `BC.GET h, i` (40_bit_container.md R87). -/
def execBcGet (h : Handle) (i : Int) (s : State) : Host.Outcome State Fault Refusal :=
  command s fun s => reading s h fun c =>
    if i < 0 ∨ (c.len : Int) ≤ i then raise .containerRange s
    else .done (ok (.bit (c.bit i.toNat))) s

/-- `BC.SET h, i, v` (40_bit_container.md R88). -/
def execBcSet (h : Handle) (i : Int) (v : Bool) (s : State) : Host.Outcome State Fault Refusal :=
  command s fun s => writing s h fun j c => setBit s j c i v

/-- `BC.APPEND h, v`: `BC.SET h, c.len, v` (40_bit_container.md R89). -/
def execBcAppend (h : Handle) (v : Bool) (s : State) : Host.Outcome State Fault Refusal :=
  command s fun s => writing s h fun j c => setBit s j c (c.len : Int) v

/-- `BC.CLEAR h` (40_bit_container.md R90). -/
def execBcClear (h : Handle) (s : State) : Host.Outcome State Fault Refusal :=
  command s fun s => writing s h fun j c => .done (ok .nothing) (s.withScratch j c.clear)

/-- `BC.SETR8 h, a, b, x` (40_bit_container.md R91). -/
def execBcSetr8 (h : Handle) (a b : Int) (x : BitVec 8) (s : State) : Host.Outcome State Fault Refusal :=
  command s (setRange 8 h a b x)

/-- `BC.SETR16 h, a, b, x` (40_bit_container.md R91). -/
def execBcSetr16 (h : Handle) (a b : Int) (x : BitVec 16) (s : State) : Host.Outcome State Fault Refusal :=
  command s (setRange 16 h a b x)

/-- `BC.SETR32 h, a, b, x` (40_bit_container.md R91). -/
def execBcSetr32 (h : Handle) (a b : Int) (x : BitVec 32) (s : State) : Host.Outcome State Fault Refusal :=
  command s (setRange 32 h a b x)

/-- `BC.SETR64 h, a, b, x` (40_bit_container.md R91). -/
def execBcSetr64 (h : Handle) (a b : Int) (x : BitVec 64) (s : State) : Host.Outcome State Fault Refusal :=
  command s (setRange 64 h a b x)

/-- `BC.UINT8 h, a, b` (40_bit_container.md R92). -/
def execBcUint8 (h : Handle) (a b : Int) (s : State) : Host.Outcome State Fault Refusal :=
  command s fun s => uintRange 8 h a b s .u8

/-- `BC.UINT16 h, a, b` (40_bit_container.md R92). -/
def execBcUint16 (h : Handle) (a b : Int) (s : State) : Host.Outcome State Fault Refusal :=
  command s fun s => uintRange 16 h a b s .u16

/-- `BC.UINT32 h, a, b` (40_bit_container.md R92). -/
def execBcUint32 (h : Handle) (a b : Int) (s : State) : Host.Outcome State Fault Refusal :=
  command s fun s => uintRange 32 h a b s .u32

/-- `BC.UINT64 h, a, b` (40_bit_container.md R92). -/
def execBcUint64 (h : Handle) (a b : Int) (s : State) : Host.Outcome State Fault Refusal :=
  command s fun s => uintRange 64 h a b s .u64

/-- `BC.SETBYTES h, bs` (40_bit_container.md R93). -/
def execBcSetbytes (h : Handle) (bs : List Byte) (s : State) : Host.Outcome State Fault Refusal :=
  command s fun s => writing s h fun j c => replaceContent s j c (8 * bs.length) (bytesBit bs)

/-- `BC.SEARCH h, p` (40_bit_container.md R96). -/
def execBcSearch (h p : Handle) (s : State) : Host.Outcome State Fault Refusal :=
  command s fun s => reading s h fun c => reading s p fun q =>
    if q.len = 0 then raise .containerEmptyPattern s
    else match c.search q with
      | some i => .done (ok (.nat i)) s
      | none => .done (.returned .notFound .nothing) s

/-- `BC.LAST d, h, n` (40_bit_container.md R97). -/
def execBcLast (d h : Handle) (n : Int) (s : State) : Host.Outcome State Fault Refusal :=
  command s fun s => reading s h fun c => writing s d fun j t =>
    if n < 0 ∨ (c.len : Int) < n then raise .containerRange s
    else growAndWrite s j t n.toNat (·.takeLast c n.toNat)

/-- `BC.PRUNE h, n` (40_bit_container.md R98). -/
def execBcPrune (h : Handle) (n : Int) (s : State) : Host.Outcome State Fault Refusal :=
  command s fun s => writing s h fun j c =>
    if n < 0 ∨ (c.len : Int) < n then raise .containerRange s
    else .done (ok .nothing) (s.withScratch j (c.prune n.toNat))

/-- `BC.EQUAL h, p` (40_bit_container.md R99). -/
def execBcEqual (h p : Handle) (s : State) : Host.Outcome State Fault Refusal :=
  command s fun s => reading s h fun c => reading s p fun q => .done (ok (.bit (c.same q))) s

/-- `BC.COUNT h` (40_bit_container.md R100). -/
def execBcCount (h : Handle) (s : State) : Host.Outcome State Fault Refusal :=
  command s fun s => reading s h fun c => .done (ok (.nat c.count)) s

/-- `BC.LEN h` (40_bit_container.md R101). -/
def execBcLen (h : Handle) (s : State) : Host.Outcome State Fault Refusal :=
  command s fun s => reading s h fun c => .done (ok (.nat c.len)) s

/-- `BC.STRL h` (40_bit_container.md R102). -/
def execBcStrl (h : Handle) (s : State) : Host.Outcome State Fault Refusal :=
  command s fun s => reading s h fun c => .done (ok (.string c.spellLeft)) s

/-- `BC.STRR h` (40_bit_container.md R103). -/
def execBcStrr (h : Handle) (s : State) : Host.Outcome State Fault Refusal :=
  command s fun s => reading s h fun c => .done (ok (.string c.spellRight)) s

/-- `BC.FROMSTR h, s` (40_bit_container.md R94). -/
def execBcFromstr (h : Handle) (cs : List Char) (s : State) : Host.Outcome State Fault Refusal :=
  command s fun s => writing s h fun j c =>
    if cs.all (fun ch => ch == '0' || ch == '1') then replaceContent s j c cs.length (stringBit cs)
    else raise .containerBadChar s

/-- `BC.FROMU8 h, x` (40_bit_container.md R95). -/
def execBcFromu8 (h : Handle) (x : BitVec 8) (s : State) : Host.Outcome State Fault Refusal :=
  command s (fromUint 8 h x)

/-- `BC.FROMU16 h, x` (40_bit_container.md R95). -/
def execBcFromu16 (h : Handle) (x : BitVec 16) (s : State) : Host.Outcome State Fault Refusal :=
  command s (fromUint 16 h x)

/-- `BC.FROMU32 h, x` (40_bit_container.md R95). -/
def execBcFromu32 (h : Handle) (x : BitVec 32) (s : State) : Host.Outcome State Fault Refusal :=
  command s (fromUint 32 h x)

/-- `BC.FROMU64 h, x` (40_bit_container.md R95). -/
def execBcFromu64 (h : Handle) (x : BitVec 64) (s : State) : Host.Outcome State Fault Refusal :=
  command s (fromUint 64 h x)

end Sys2Proof.Machine
end

