-- ==== Sys2Proof/Machine/Header.lean ====
section
/-! DEFINITION. What an elink does with a recognised 50-bit word: the HEADER arms of 44_elink.md R133 - R138 and the sync
acquisition of R131, each the meaning of a header row of spec/opcode_table.json (log 9). -/

namespace Sys2Proof.Machine

/-- `E[e].sdh <- h`, the first write of `header(e)` (44_elink.md R133). -/
def storeSdh (e : ElinkId) (h : Sdh) (s : State) : State := s.withElink e ((s.elink e).withSdh h)

/-- `header_data(e, h)` (44_elink.md R134): an empty packet when `numWords` is 0, else into DATA. -/
def headerData (e : ElinkId) (h : Sdh) (s : State) : Run (Option Packet) :=
  if (Sdh.numWords h).toNat = 0 then
    let p : Packet := { sdh := h, elinkId := e, clusters := [] }
    .done (some p) ((s.withElink e ((s.elink e).rearm 50)).emit p)
  else .done none (s.withElink e ((s.elink e).enterData (Sdh.numWords h).toNat))

/-- `header_sync(e, h)` (44_elink.md R135). -/
def headerSync (e : ElinkId) (h : Sdh) (s : State) : Run (Option Packet) :=
  if h ≠ syncPattern then raise .syncPatternMismatch s
  else .done none (s.withElink e (s.elink e).countSync)

/-- `header_heartbeat(e)`, `header_numwords(e)` and the unreachable arm "other": `clear(); checkpoint <- 50`, stay in HEADER
(44_elink.md R136, R137, R138). -/
def headerReset (e : ElinkId) (s : State) : Run (Option Packet) :=
  .done none (s.withElink e ((s.elink e).rearm 50))

/-- The HUNT match: `sdh <- SYNC_PATTERN; clear(); checkpoint <- 50; nsync <- 1`, now HEADER (44_elink.md R131). -/
def huntMatch (e : ElinkId) (s : State) : Run (Option Packet) :=
  if Sdh.pkt syncPattern ≠ 2 then raise .syncPktMismatch s
  else .done none (s.withElink e ((s.elink e).acquire syncPattern))

/-- The answer of a command that feeds an elink: its packet, or none (30_encoding.md R79, log 13). -/
def packetAnswer (x : Run (Option Packet)) : Run Answer := x.map fun p => ok (.packet p)

/-- `SDH.HEARTBEAT`, PKT 0 (44_elink.md R136). -/
def execSdhHeartbeat (e : ElinkId) (f : SdhFields) (s : State) : Host.Outcome State Fault Refusal :=
  command s fun s => packetAnswer (headerReset e (storeSdh e (Sdh.pack 0 f) s))

/-- `SDH.DATA_TRUNCATED`, PKT 1 (44_elink.md R134). -/
def execSdhDataTruncated (e : ElinkId) (f : SdhFields) (s : State) : Host.Outcome State Fault Refusal :=
  command s fun s => packetAnswer (headerData e (Sdh.pack 1 f) (storeSdh e (Sdh.pack 1 f) s))

/-- `SDH.SYNC`, PKT 2 (44_elink.md R135). -/
def execSdhSync (e : ElinkId) (f : SdhFields) (s : State) : Host.Outcome State Fault Refusal :=
  command s fun s => packetAnswer (headerSync e (Sdh.pack 2 f) (storeSdh e (Sdh.pack 2 f) s))

/-- `SDH.DATA_TRUNCATED_TRIGGER_TOO_EARLY`, PKT 3 (44_elink.md R134). -/
def execSdhDataTruncatedTriggerTooEarly (e : ElinkId) (f : SdhFields) (s : State) : Host.Outcome State Fault Refusal :=
  command s fun s => packetAnswer (headerData e (Sdh.pack 3 f) (storeSdh e (Sdh.pack 3 f) s))

/-- `SDH.DATA`, PKT 4 (44_elink.md R134). -/
def execSdhData (e : ElinkId) (f : SdhFields) (s : State) : Host.Outcome State Fault Refusal :=
  command s fun s => packetAnswer (headerData e (Sdh.pack 4 f) (storeSdh e (Sdh.pack 4 f) s))

/-- `SDH.DATA_NUMWORDS`, PKT 5 (44_elink.md R137). -/
def execSdhDataNumwords (e : ElinkId) (f : SdhFields) (s : State) : Host.Outcome State Fault Refusal :=
  command s fun s => packetAnswer (headerReset e (storeSdh e (Sdh.pack 5 f) s))

/-- `SDH.DATA_TRIGGER_TOO_EARLY`, PKT 6 (44_elink.md R134). -/
def execSdhDataTriggerTooEarly (e : ElinkId) (f : SdhFields) (s : State) : Host.Outcome State Fault Refusal :=
  command s fun s => packetAnswer (headerData e (Sdh.pack 6 f) (storeSdh e (Sdh.pack 6 f) s))

/-- `SDH.DATA_TRIGGER_TOO_EARLY_NUMWORDS`, PKT 7 (44_elink.md R134). -/
def execSdhDataTriggerTooEarlyNumwords (e : ElinkId) (f : SdhFields) (s : State) : Host.Outcome State Fault Refusal :=
  command s fun s => packetAnswer (headerData e (Sdh.pack 7 f) (storeSdh e (Sdh.pack 7 f) s))

/-- `SDH.SYNC_PATTERN (HUNT match)` (44_elink.md R131). -/
def execSdhSyncPatternHuntMatch (e : ElinkId) (s : State) : Host.Outcome State Fault Refusal :=
  command s fun s => packetAnswer (huntMatch e s)

end Sys2Proof.Machine
end

