-- ==== Sys2Proof/Machine/ElinkUnit.lean ====
section
/-! DEFINITION. The elink state machine: feeding bits, `process`, HUNT, HEADER, DATA, and the `EL.*` commands
(44_elink.md R127 - R144). -/

namespace Sys2Proof.Machine

/-- `hunt(e)` (44_elink.md R131). -/
def hunt (e : ElinkId) (s : State) : Run (Option Packet) :=
  if (s.elink e).bits.last50 = syncPattern then huntMatch e s
  else .done none (s.withElink e (s.elink e).slide)

/-- The HEADER arm that PKT selects (44_elink.md R133; the last arm is R138, which no 3-bit PKT reaches). -/
def headerArm (e : ElinkId) (h : Sdh) (s : State) : Run (Option Packet) :=
  match (Sdh.pkt h).toNat with
  | 0 => headerReset e s
  | 1 => headerData e h s
  | 2 => headerSync e h s
  | 3 => headerData e h s
  | 4 => headerData e h s
  | 5 => headerReset e s
  | 6 => headerData e h s
  | 7 => headerData e h s
  | _ => headerReset e s

/-- `header(e)` (44_elink.md R133). -/
def header (e : ElinkId) (s : State) : Run (Option Packet) :=
  let h := (s.elink e).bits.last50
  headerArm e h (storeSdh e h s)

/-- The loop of `decode_clusters` over the words left, at most `fuel` clusters; `none` is its `raise Fatal(PAYLOAD_OVERRUN)`
(44_elink.md R141). -/
def clustersOf : Nat → List Word10 → Option (List Cluster)
  | fuel + 1, n :: ts :: rest =>
      if rest.length < n.toNat then none
      else (clustersOf fuel (rest.drop n.toNat)).map fun cs => { ts := ts, samples := rest.take n.toNat } :: cs
  | _, _ => some []

/-- `decode_clusters(w)` (44_elink.md R141): a cluster takes at least 2 words, so `|w|` turns are enough; a single word left at
the end is ignored. -/
def decodeClusters (w : List Word10) : Option (List Cluster) := clustersOf w.length w

/-- `data(e)` (44_elink.md R139). -/
def data (e : ElinkId) (s : State) : Run (Option Packet) :=
  match decodeClusters (s.elink e).bits.split10 with
  | none => raise .payloadOverrun s
  | some cs =>
    let p : Packet := { sdh := (s.elink e).sdh, elinkId := e, clusters := cs }
    .done (some p) ((s.withElink e (s.elink e).leaveData).emit p)

/-- `process(e)` (44_elink.md R130), its two unreachable checks among it. -/
def process (e : ElinkId) (s : State) : Run (Option Packet) :=
  if (s.elink e).bits.len ≠ (s.elink e).checkpoint then raise .checkpointMismatch s
  else if (s.elink e).indata = true ∧ (s.elink e).nsync = 0 then raise .elinkStateInconsistent s
  else
    match (s.elink e).state with
    | .data => data e s
    | .hunt => hunt e s
    | .header => header e s

/-- Elink `e` with one bit more, its container grown to `c` (44_elink.md R127). -/
def storeBit (e : ElinkId) (c : Container) (v : Bool) (s : State) : State :=
  s.withElink e { s.elink e with bits := c.set c.len v }

/-- `push(e, v)` (44_elink.md R127): the checkpoint is tested after each single bit. -/
def push (e : ElinkId) (v : Bool) (s : State) : Run (Option Packet) :=
  match (s.elink e).bits.grow s.config.maxCapacityBits ((s.elink e).bits.len + 1) with
  | none => raise .containerCapacity s
  | some c =>
    let s1 := storeBit e c v s
    if (s1.elink e).bits.len = (s1.elink e).checkpoint then process e s1 else .done none s1

/-- `append(e, v0, v1)` (44_elink.md R128): bit0 first, and at most one packet (R129). -/
def append (e : ElinkId) (v0 v1 : Bool) (s : State) : Run (Option Packet) :=
  (push e v0 s).bind fun p0 s1 => (push e v1 s1).map fun p1 => p0.or p1

/-- `force_clear(e)` (44_elink.md R142). -/
def forceClear (e : ElinkId) (s : State) : State := s.withElink e (s.elink e).forceClear

/-- `EL.APPEND e, v0, v1` (44_elink.md R128). -/
def execElAppend (e : ElinkId) (v0 v1 : Bool) (s : State) : Host.Outcome State Fault Refusal :=
  command s fun s => packetAnswer (append e v0 v1 s)

/-- `EL.PUSH e, v` (44_elink.md R127). -/
def execElPush (e : ElinkId) (v : Bool) (s : State) : Host.Outcome State Fault Refusal :=
  command s fun s => packetAnswer (push e v s)

/-- `EL.FORCECLEAR e` (44_elink.md R142). -/
def execElForceclear (e : ElinkId) (s : State) : Host.Outcome State Fault Refusal :=
  command s fun s => .done (ok .nothing) (forceClear e s)

/-- `EL.ISEMPTY e` (44_elink.md R143). -/
def execElIsempty (e : ElinkId) (s : State) : Host.Outcome State Fault Refusal :=
  command s fun s => .done (ok (.bit ((s.elink e).bits.len == 0))) s

/-- What `EL.READ` reads of a bank (44_elink.md R144). -/
def Elink.readOut (b : Elink) : Results :=
  .bank b.state.code b.nsync b.indata b.checkpoint b.bits.len b.sdh

/-- `EL.READ e` (44_elink.md R144). -/
def execElRead (e : ElinkId) (s : State) : Host.Outcome State Fault Refusal :=
  command s fun s => .done (ok (s.elink e).readOut) s

end Sys2Proof.Machine
end

