-- ==== Sys2Proof/Machine/Demux.lean ====
section
/-! DEFINITION. Dispatch, the bit-slice demultiplexer: `DSP.WORD` and `DSP.CLEARALL` (43_dispatch.md R120 - R126). -/

namespace Sys2Proof.Machine

/-- The pairs `(i, j/2)` of the loops of 43_dispatch.md R120 in visiting order: byte `i` outer, `j` inner (R126). -/
def visitOrder (n : Nat) : List (Nat × Nat) :=
  (List.range n).flatMap fun i => (List.range 4).map fun q => (i, q)

/-- The elink `(4 i + j/2) mod 40` (43_dispatch.md R120). -/
def pairElink (i q : Nat) : ElinkId := ⟨(4 * i + q) % 40, Nat.mod_lt _ (by omega)⟩

/-- One pair: skipped if its elink is masked (43_dispatch.md R124), else `append(e, b[j+1], b[j])` with `j = 2 q` (R120). -/
def dispatchPair (g : List Byte) (i q : Nat) (s : State) : Run (Option Packet) :=
  if s.mask.getLsbD (pairElink i q).val then .done none s
  else append (pairElink i q) ((byteAt g i).getLsbD (2 * q + 1)) ((byteAt g i).getLsbD (2 * q)) s

/-- The loops of 43_dispatch.md R120 over the pairs left, with the packets so far. -/
def dispatchPairs (g : List Byte) : List (Nat × Nat) → List Packet → State → Run (List Packet)
  | [], ps, s => .done ps s
  | (i, q) :: rest, ps, s =>
      (dispatchPair g i q s).bind fun p s1 => dispatchPairs g rest (ps ++ p.toList) s1

/-- What the body of `DSP.WORD` comes to (43_dispatch.md R120, R122). -/
inductive DispatchReply where
  | incorrectSize
  | packets (ps : List Packet)
  deriving DecidableEq, Repr

/-- The body of `DSP.WORD g` (43_dispatch.md R120), with `N_DISPATCH_BYTES` from the parameters. -/
def dispatchWord (g : List Byte) (s : State) : Run DispatchReply :=
  if g.length ≠ 10 then .done .incorrectSize s
  else (dispatchPairs g (visitOrder s.config.nDispatchBytes) [] s).map .packets

/-- The body of `DSP.CLEARALL`: `for e in 0 .. 39: force_clear(e)` (43_dispatch.md R121). -/
def clearAll (s : State) : State := (List.finRange 40).foldl (fun s e => forceClear e s) s

/-- The answer of `DSP.WORD` (43_dispatch.md R120, R122). -/
def DispatchReply.answer : DispatchReply → Answer
  | .incorrectSize => .returned .errIncorrectSize .nothing
  | .packets ps => ok (.packets ps)

/-- `DSP.WORD g` (43_dispatch.md R120). -/
def execDspWord (g : List Byte) (s : State) : Host.Outcome State Fault Refusal :=
  command s fun s => (dispatchWord g s).map DispatchReply.answer

/-- `DSP.CLEARALL` (43_dispatch.md R121). -/
def execDspClearall (s : State) : Host.Outcome State Fault Refusal :=
  command s fun s => .done (ok .nothing) (clearAll s)

end Sys2Proof.Machine
end

