-- ==== Sys2Proof/Machine/Reader.lean ====
section
/-! DEFINITION. The framed event reader and the GBT word extractor: `RD.NEXTEVENT` (41_frame_reader.md R105 - R113) and
`RD.NEXTGBT` (42_gbt_extractor.md R114 - R119). Their bodies are shared with `PL.STEP`. -/

namespace Sys2Proof.Machine

/-- What the body of `RD.NEXTEVENT` comes to: no frame, or an Event (41_frame_reader.md R105, R111). -/
inductive EventReply where
  | eof
  | event (header payload : List Byte) (size : Nat)
  deriving DecidableEq, Repr

/-- The last writes of a frame read: phase `LOADED`, and one event more (41_frame_reader.md R105, R112, R113). -/
def State.acceptEvent (s : State) : State := (s.withPhase .loaded).countEvent

/-- The payload of a frame whose header `hb` gives `L > 0` payload bytes: the read, the store and the equipment check
(41_frame_reader.md R105, R109). -/
def readPayload (hb : List Byte) (L : Nat) (s : State) : Run EventReply :=
  if s.config.maxPayloadBytes < L then raise .payloadTooLarge s
  else
    let (pb, s1) := streamRead L s
    if pb.length < L then raise .shortPayload s1
    else
      let s2 := (s1.withPayload (s1.payload.write 0 pb)).withSize L
      if L < 4 ∨ (u32le s2.payload.read 0).toNat ≠ L then raise .equipmentSizeMismatch s2
      else .done (.event hb (s2.payload.readBytes 0 L) L) s2.acceptEvent

/-- A frame whose 80 header bytes `hb` have been read: the magic, the event size, the empty event, the payload
(41_frame_reader.md R105 - R108). -/
def readFrame (hb : List Byte) (s : State) : Run EventReply :=
  let s1 := s.withHdr (headerRegister hb)
  let d := dateHeader hb
  if d.eventMagic ≠ eventMagic then raise .badMagic s1
  else if d.eventSize.toNat < 80 then raise .badEventSize s1
  else if d.eventSize.toNat = 80 then .done (.event hb [] 0) (s1.withSize 0).acceptEvent
  else readPayload hb (d.eventSize.toNat - 80) s1

/-- The body of `RD.NEXTEVENT` (41_frame_reader.md R105). -/
def nextEvent (s : State) : Run EventReply :=
  if s.rdEof then .done .eof s
  else
    let (hb, s1) := streamRead 80 s
    if hb.length = 0 then .done .eof s1.endSource
    else if hb.length < 80 then raise .shortHeader s1
    else readFrame hb s1

/-- What the body of `RD.NEXTGBT` comes to: a status, or a GBT word (42_gbt_extractor.md R114). -/
inductive GbtReply where
  | eof
  | emptyEvent
  | invalidSop
  | endOfEvent
  | word (g : List Byte)
  deriving DecidableEq, Repr

/-- `RD.NEXTGBT` in phase `IN_EVENT`: the next window, if it ends at or before the trailer, that is
`gbt_pos + 16 <= size - 32` (42_gbt_extractor.md R114, R117; on naturals, log 15). -/
def gbtWindow (s : State) : Run GbtReply :=
  if s.size < s.gbtPos + 48 then .done .endOfEvent (s.withPhase .needEvent)
  else
    .done (.word (reshuffle (s.payload.readBytes s.gbtPos 16))) (s.withGbtPos (s.gbtPos + 16)).countGbt

/-- `RD.NEXTGBT` in phase `LOADED`: the empty event, the SOP check, then the first window (42_gbt_extractor.md R114, R115). -/
def gbtLoaded (s : State) : Run GbtReply :=
  if s.size = 0 then .done .emptyEvent (s.withPhase .needEvent)
  else if sopOk s.payload s.size then gbtWindow ((s.withGbtPos 44).withPhase .inEvent)
  else .done .invalidSop (s.withPhase .needEvent)

/-- `RD.NEXTGBT` in phase `NEED_EVENT`: read a frame, then go on from `LOADED` (42_gbt_extractor.md R114). -/
def gbtNeedEvent (s : State) : Run GbtReply :=
  (nextEvent s).bind fun r s1 =>
    match r with
    | .eof => .done .eof s1
    | .event _ _ _ => gbtLoaded s1

/-- The body of `RD.NEXTGBT` (42_gbt_extractor.md R114). -/
def nextGbt (s : State) : Run GbtReply :=
  if s.rdEof then .done .eof s
  else
    match s.rdPhase with
    | .needEvent => gbtNeedEvent s
    | .loaded => gbtLoaded s
    | .inEvent => gbtWindow s

/-- The answer of `RD.NEXTEVENT` (41_frame_reader.md R105). -/
def EventReply.answer : EventReply → Answer
  | .eof => .returned .eof .nothing
  | .event hb pb n => ok (.event hb pb n)

/-- The answer of `RD.NEXTGBT` (42_gbt_extractor.md R114). -/
def GbtReply.answer : GbtReply → Answer
  | .eof => .returned .eof .nothing
  | .emptyEvent => .returned .errEmptyEvent .nothing
  | .invalidSop => .returned .errInvalidSop .nothing
  | .endOfEvent => .returned .errEndOfEvent .nothing
  | .word g => ok (.gbt g)

/-- `RD.NEXTEVENT` (41_frame_reader.md R105). -/
def execRdNextevent (s : State) : Host.Outcome State Fault Refusal :=
  command s fun s => (nextEvent s).map EventReply.answer

/-- `RD.NEXTGBT` (42_gbt_extractor.md R114). -/
def execRdNextgbt (s : State) : Host.Outcome State Fault Refusal :=
  command s fun s => (nextGbt s).map GbtReply.answer

end Sys2Proof.Machine
end

