-- ==== Sys2Proof/Machine/Pipeline.lean ====
section
/-! DEFINITION. The pipeline sequencer `PL.STEP` (45_pipeline.md R147, R148) and the mask register's commands (R151, R152). -/

namespace Sys2Proof.Machine

/-- The case of `PL.STEP` on what the extractor came to (45_pipeline.md R147). -/
def stepOn (r : GbtReply) (s : State) : Run Answer :=
  match r with
  | .word g => (dispatchWord g s).map fun _ => ok .nothing
  | .emptyEvent => .done (.returned .errEmptyEvent .nothing) s
  | .invalidSop => .done (.returned .errInvalidSop .nothing) s
  | .endOfEvent =>
      .done (.returned .errEndOfEvent .nothing) (if s.config.resyncAtEventBoundary then clearAll s else s)
  | .eof => .done (.returned .eof .nothing) s.halt

/-- The body of `PL.STEP` (45_pipeline.md R147). -/
def pipelineStep (s : State) : Run Answer :=
  if s.halted then .done (.returned .eof .nothing) s
  else (nextGbt s).bind stepOn

/-- `PL.STEP` (45_pipeline.md R147). -/
def execPlStep (s : State) : Host.Outcome State Fault Refusal := command s pipelineStep

/-- `CFG.SETMASK m` (45_pipeline.md R151). -/
def execCfgSetmask (m : BitVec 40) (s : State) : Host.Outcome State Fault Refusal :=
  command s fun s => .done (ok .nothing) (s.withMask m)

/-- `CFG.GETMASK` (45_pipeline.md R152). -/
def execCfgGetmask (s : State) : Host.Outcome State Fault Refusal :=
  command s fun s => .done (ok (.mask s.mask)) s

end Sys2Proof.Machine
end

