-- ==== Sys2Proof/Machine/System.lean ====
section
/-! DEFINITION. The system commands `SYS.STATUS` (45_pipeline.md R153) and `SYS.RESET` (70_reset_and_hazards.md R175), the two
that run on a faulted block (60_exceptions.md R161). -/

namespace Sys2Proof.Machine

/-- What `SYS.STATUS` reads (45_pipeline.md R153). -/
def State.statusWord (s : State) : Results :=
  .sysStatus (faultCode s.fault) s.halted s.rdPhase.code s.eventsRead s.gbtWords s.out.length

/-- `SYS.STATUS` (45_pipeline.md R153). -/
def execSysStatus (s : State) : Host.Outcome State Fault Refusal := finish (.done (ok s.statusWord) s)

/-- The block reset with a byte source (70_reset_and_hazards.md R175): every field of `S` at its reset value. The parameters
stay (10_state.md R26), and so do the host's coming actions and the packets it has taken (log 5). -/
def State.restart (s : State) (src : List Byte) : State :=
  { State.resetWith s.config src with pending := s.pending, drained := s.drained }

/-- `SYS.RESET src` (70_reset_and_hazards.md R175): the only way out of a fault (60_exceptions.md R166). -/
def execSysReset (src : List Byte) (s : State) : Host.Outcome State Fault Refusal :=
  finish (.done (ok .nothing) (s.restart src))

end Sys2Proof.Machine
end

