-- ==== Sys2Proof/Machine/Dispatch.lean ====
section
/-! DEFINITION. The dispatch: one arm per constructor of Instr, each a direct call of that instruction's meaning. -/

namespace Sys2Proof.Machine

/-- The meaning of an instruction. -/
def exec (i : Instr) (s : State) : Host.Outcome State Fault Refusal :=
  match i with
  | .bcGet h n => Sys2Proof.Machine.execBcGet h n s
  | .bcSet h n v => Sys2Proof.Machine.execBcSet h n v s
  | .bcAppend h v => Sys2Proof.Machine.execBcAppend h v s
  | .bcClear h => Sys2Proof.Machine.execBcClear h s
  | .bcSetr8 h a b x => Sys2Proof.Machine.execBcSetr8 h a b x s
  | .bcSetr16 h a b x => Sys2Proof.Machine.execBcSetr16 h a b x s
  | .bcSetr32 h a b x => Sys2Proof.Machine.execBcSetr32 h a b x s
  | .bcSetr64 h a b x => Sys2Proof.Machine.execBcSetr64 h a b x s
  | .bcUint8 h a b => Sys2Proof.Machine.execBcUint8 h a b s
  | .bcUint16 h a b => Sys2Proof.Machine.execBcUint16 h a b s
  | .bcUint32 h a b => Sys2Proof.Machine.execBcUint32 h a b s
  | .bcUint64 h a b => Sys2Proof.Machine.execBcUint64 h a b s
  | .bcSetbytes h bs => Sys2Proof.Machine.execBcSetbytes h bs s
  | .bcSearch h p => Sys2Proof.Machine.execBcSearch h p s
  | .bcLast d h n => Sys2Proof.Machine.execBcLast d h n s
  | .bcPrune h n => Sys2Proof.Machine.execBcPrune h n s
  | .bcEqual h p => Sys2Proof.Machine.execBcEqual h p s
  | .bcCount h => Sys2Proof.Machine.execBcCount h s
  | .bcLen h => Sys2Proof.Machine.execBcLen h s
  | .bcStrl h => Sys2Proof.Machine.execBcStrl h s
  | .bcStrr h => Sys2Proof.Machine.execBcStrr h s
  | .bcFromstr h cs => Sys2Proof.Machine.execBcFromstr h cs s
  | .bcFromu8 h x => Sys2Proof.Machine.execBcFromu8 h x s
  | .bcFromu16 h x => Sys2Proof.Machine.execBcFromu16 h x s
  | .bcFromu32 h x => Sys2Proof.Machine.execBcFromu32 h x s
  | .bcFromu64 h x => Sys2Proof.Machine.execBcFromu64 h x s
  | .rdNextevent => Sys2Proof.Machine.execRdNextevent s
  | .rdNextgbt => Sys2Proof.Machine.execRdNextgbt s
  | .dspWord g => Sys2Proof.Machine.execDspWord g s
  | .dspClearall => Sys2Proof.Machine.execDspClearall s
  | .elAppend e v0 v1 => Sys2Proof.Machine.execElAppend e v0 v1 s
  | .elPush e v => Sys2Proof.Machine.execElPush e v s
  | .elForceclear e => Sys2Proof.Machine.execElForceclear e s
  | .elIsempty e => Sys2Proof.Machine.execElIsempty e s
  | .elRead e => Sys2Proof.Machine.execElRead e s
  | .plStep => Sys2Proof.Machine.execPlStep s
  | .cfgSetmask m => Sys2Proof.Machine.execCfgSetmask m s
  | .cfgGetmask => Sys2Proof.Machine.execCfgGetmask s
  | .sysStatus => Sys2Proof.Machine.execSysStatus s
  | .sysReset src => Sys2Proof.Machine.execSysReset src s
  | .sdhHeartbeat e f => Sys2Proof.Machine.execSdhHeartbeat e f s
  | .sdhDataTruncated e f => Sys2Proof.Machine.execSdhDataTruncated e f s
  | .sdhSync e f => Sys2Proof.Machine.execSdhSync e f s
  | .sdhDataTruncatedTriggerTooEarly e f => Sys2Proof.Machine.execSdhDataTruncatedTriggerTooEarly e f s
  | .sdhData e f => Sys2Proof.Machine.execSdhData e f s
  | .sdhDataNumwords e f => Sys2Proof.Machine.execSdhDataNumwords e f s
  | .sdhDataTriggerTooEarly e f => Sys2Proof.Machine.execSdhDataTriggerTooEarly e f s
  | .sdhDataTriggerTooEarlyNumwords e f => Sys2Proof.Machine.execSdhDataTriggerTooEarlyNumwords e f s
  | .sdhSyncPatternHuntMatch e => Sys2Proof.Machine.execSdhSyncPatternHuntMatch e s

end Sys2Proof.Machine
end

