-- ==== Sys2Proof/Machine/Issue.lean ====
section
/-! DEFINITION. The host's actions (45_pipeline.md R154): a command issued, a packet drained; and how an instruction is placed
so that the next step runs it (log 4). -/

namespace Sys2Proof.Machine

/-- A command the decoder rejects: `ILLEGAL_COMMAND` (30_encoding.md R80), but refused like every other command on a faulted
block (60_exceptions.md R161, log 8). -/
def rejected (s : State) : Host.Outcome State Fault Refusal := command s (raise .illegalCommand)

/-- One command of the host, decoded and run to completion (00_scope.md R18). The meaning of each command makes the check of
60_exceptions.md R161 before it looks at an operand. -/
def issueCommand (c : RawCommand) (s : State) : Host.Outcome State Fault Refusal :=
  match decode (.command c) with
  | .ok i => exec i s
  | .error _ => rejected s

/-- Drain: the host removes the head packet and receives it; with an empty queue there is nothing to remove
(45_pipeline.md R154). No command, no result, and a fault does not refuse it (60_exceptions.md R161). -/
def drainHead (s : State) : State :=
  match s.out with
  | [] => s
  | p :: rest => { s with out := rest, drained := s.drained ++ [p] }

/-- One action of the host. -/
def perform (a : HostAction) (s : State) : Host.Outcome State Fault Refusal :=
  match a with
  | .issue c => issueCommand c s
  | .drain => .next (drainHead s)

/-- An action put before the host's other coming actions. -/
def State.before (s : State) (a : HostAction) : State := s.withPending (a :: s.pending)

/-- Elink `e` given the first 49 bits of `w`, its checkpoint 50, hunting (`nsync` 0) or synchronised (`nsync` 1), and the host
about to push bit 49: the next bit completes the word (44_elink.md R127, R130). -/
def placeWord (e : ElinkId) (w : Sdh) (nsync : Nat) (s : State) : State :=
  (s.withElink e
    { s.elink e with
      bits := (s.elink e).bits.fill 49 w.getLsbD
      checkpoint := 50
      indata := false
      nsync := nsync }).before (.issue ⟨0x51, [.ofElink e, .ofBit (w.getLsbD 49)]⟩)

/-- A fetched unit placed where the next step fetches it: a command is the host's next action; a header word stands on its elink,
all but its last bit, and the next action pushes that bit (log 4). -/
def place (f : Fetched) (s : State) : State :=
  match f with
  | .command c => s.before (.issue c)
  | .hunt e w => placeWord e w 0 s
  | .header e w => placeWord e w 1 s

end Sys2Proof.Machine
end

