-- ==== Sys2Proof/Machine/Step.lean ====
section
/-! DEFINITION. The step: one action of the host (45_pipeline.md R154), taken from the front of `pending`. -/

namespace Sys2Proof.Machine

/-- One step. With nothing pending the block does nothing (70_reset_and_hazards.md R178, 60_exceptions.md R174; log 1). -/
def step (s : State) : Host.Outcome State Fault Refusal :=
  match s.pending with
  | [] => .next s
  | a :: rest => perform a (s.withPending rest)

/-- The state with an opcode-table word placed where `step` fetches next (log 4). -/
def State.withFetchWord (s : State) (nbits w : Nat) : State := place (tableWord nbits w) s

end Sys2Proof.Machine
end

