-- ==== Sys2Proof/Safety.lean ====
section
/-! DEFINITION. What counts as a sound state: the invariants 10_state.md and 44_elink.md state of the block between commands, in
the terms the claims use. -/

namespace Sys2Proof.Machine

/-- A PKT value of the class "data" (30_encoding.md R72). -/
def dataPkt (p : BitVec 3) : Bool := p == 1 || p == 3 || p == 4 || p == 6 || p == 7

/-- The 10-bit words a cluster spans: its count, its timestamp, its samples (30_encoding.md R74). -/
def Cluster.words (c : Cluster) : Nat := c.samples.length + 2

/-- A packet whose clusters are those of a payload of its header's `numWords` words, at most one word left over, under a header
of a data PKT (44_elink.md R134, R139, R141). -/
abbrev Packet.Fits (p : Packet) : Prop :=
  dataPkt (Sdh.pkt p.sdh) = true ∧ (p.clusters.map Cluster.words).sum ≤ (Sdh.numWords p.sdh).toNat ∧
    (Sdh.numWords p.sdh).toNat ≤ (p.clusters.map Cluster.words).sum + 1

/-- The invariants of one elink bank (10_state.md R37, R39; 44_elink.md R132, R133, R139). Only a faulted block can hold a bank
whose length has reached its checkpoint (60_exceptions.md R163). -/
structure Elink.Sound (b : Elink) (faulted : Prop) : Prop where
  bitsWF : b.bits.WF
  capPos : 1 ≤ b.bits.cap
  lenLe : b.bits.len ≤ b.checkpoint
  lenLt : ¬ faulted → b.bits.len < b.checkpoint
  synced : b.indata = true → 1 ≤ b.nsync
  huntCheckpoint : b.state = .hunt → b.checkpoint = max 50 (b.bits.len + 1)
  headerCheckpoint : b.state = .header → b.checkpoint = 50
  dataCheckpoint : b.state = .data → b.checkpoint = 10 * (Sdh.numWords b.sdh).toNat ∧ 1 ≤ (Sdh.numWords b.sdh).toNat
  dataHeader : b.state = .data → dataPkt (Sdh.pkt b.sdh) = true

/-- The invariants of the reader (10_state.md R27 - R33, 20_memory.md R48, 42_gbt_extractor.md R114 - R117). -/
structure State.ReaderSound (s : State) : Prop where
  posLe : s.inPos ≤ s.src.length
  eofAtEnd : s.rdEof = true → s.inPos = s.src.length
  haltedAtEof : s.halted = true → s.rdEof = true
  payloadWF : s.payload.wf
  payloadInside : ∀ c ∈ s.payload, c.1 < s.config.maxPayloadBytes
  sizeLe : s.size ≤ s.config.maxPayloadBytes
  counted : s.rdPhase ≠ .needEvent → 1 ≤ s.eventsRead
  inEvent : s.fault = none → s.rdPhase = .inEvent →
    sopOk s.payload s.size = true ∧ 44 ≤ s.gbtPos ∧ (s.gbtPos - 44) % 16 = 0 ∧ (s.gbtPos = 44 ∨ s.gbtPos + 32 ≤ s.size)

/-- The invariant of the machine. -/
structure State.Inv (s : State) : Prop where
  config : s.config.Valid
  reader : s.ReaderSound
  elinks : ∀ e : ElinkId, (s.elink e).Sound (s.fault ≠ none)
  scratchCount : s.scratch.length = s.config.numScratch
  scratchSound : ∀ c ∈ s.scratch, c.WF ∧ 1 ≤ c.cap
  packets : ∀ p ∈ s.drained ++ s.out, p.Fits

/-- No fatal is recorded: every command may run (60_exceptions.md R161). -/
abbrev State.Unfaulted (s : State) : Prop := s.fault = none

/-- The states the host can bring the block to from a state, by any actions (45_pipeline.md R154). -/
inductive Reaches : State → State → Prop where
  | refl (s : State) : Reaches s s
  | step (s t u : State) (acts : List HostAction) : Reaches s t → step (t.withPending acts) = .next u → Reaches s u

end Sys2Proof.Machine
end

