-- ==== Sys2Proof/Certificates/Slice0/Obligations.lean ====
section
/-! DEFINITION. The statements for the provers, each a def Obligations.<Name> : Prop, over the vocabulary of Sys2Proof.Claims: what
a command answers, which container a handle names, what a container holds, written from the rules of spec/ and not from the model's
own operations. -/

namespace Sys2Proof.Claims

open Sys2Proof Sys2Proof.Machine

/-! ### Outcomes -/

/-- The three outcomes of a step of this machine. -/
abbrev Out := Host.Outcome State Fault Refusal

/-- A command that returned: the state `s` with that answer, nothing else changed (00_scope.md R17). -/
def returns (s : State) (st : Status) (r : Results) : Out := .next { s with result := .returned st r }

/-- A command that raised a fatal in the state `s`: the fault recorded, nothing else changed (60_exceptions.md R160). -/
def raises (s : State) (c : FatalCode) : Out := .next { s with fault := some c, result := .fatal c }

/-- The state `s` with elink `e`'s bank replaced. -/
def bank (s : State) (e : ElinkId) (b : Elink) : State := { s with elinks := s.elinks.set e.val b }

/-- A `BC.*` write that succeeded: scratch container `j` is now `c`, the status is OK. -/
def wrote (s : State) (j : Nat) (c : Container) : Out :=
  .next { s with scratch := s.scratch.set j c, result := .returned .ok .nothing }

/-! ### Handles (30_encoding.md R78) -/

/-- `h = 64 + j` names scratch container `T[j]`, which is `c`. -/
abbrev ScratchAt (s : State) (h : Handle) (j : Nat) (c : Container) : Prop :=
  h.toNat = 64 + j ∧ j < s.config.numScratch ∧ s.scratch[j]? = some c

/-- The container a handle names for reading: an elink's, or a scratch container. -/
abbrev ReadsAs (s : State) (h : Handle) (c : Container) : Prop :=
  (∃ e : ElinkId, h.toNat = e.val ∧ (s.elink e).bits = c) ∨ ScratchAt s h (h.toNat - 64) c

/-- A handle that may stand in no reading position. -/
abbrev NoRead (s : State) (h : Handle) : Prop := 40 ≤ h.toNat ∧ (h.toNat < 64 ∨ 64 + s.config.numScratch ≤ h.toNat)

/-- A handle that may stand in no writing position. -/
abbrev NoWrite (s : State) (h : Handle) : Prop := h.toNat < 64 ∨ 64 + s.config.numScratch ≤ h.toNat

/-! ### Containers (10_state.md R40, 40_bit_container.md R84) -/

/-- `c` is in canonical form, and has that length, that capacity and those bits. Exactly one container does. -/
def Holds (c : Container) (len cap : Nat) (bits : Nat → Bool) : Prop :=
  c.WF ∧ c.len = len ∧ c.cap = cap ∧ ∀ n, c.bit n = bits n

/-- Bit `n` of `c` where it lies inside the container, else 0. -/
def old (c : Container) (n : Nat) : Bool := decide (n < c.len) && c.bit n

/-- `k` is the number of doublings after which the capacity `cap` first holds `need` bits (40_bit_container.md R84). -/
abbrev Doublings (cap need k : Nat) : Prop := (∀ j < k, 2 ^ j * cap < need) ∧ need ≤ 2 ^ k * cap

/-- Growth by `k` doublings is allowed: none is needed, or the new capacity is within the limit. -/
abbrev MayGrow (s : State) (cap k : Nat) : Prop := k = 0 ∨ 2 ^ k * cap ≤ s.config.maxCapacityBits

/-- A write to scratch container `j`, which was `c`, that needs `need` bits and leaves the container with length `len` and those
bits: done in a container grown by doubling, or refused with `CONTAINER_CAPACITY` and nothing written. -/
def WritesScratch (s : State) (j : Nat) (c : Container) (need len : Nat) (bits : Nat → Bool) (o : Out) : Prop :=
  ∀ k, Doublings c.cap need k →
    (MayGrow s c.cap k → ∃ c', Holds c' len (2 ^ k * c.cap) bits ∧ o = wrote s j c') ∧
      (¬ MayGrow s c.cap k → o = raises s .containerCapacity)

/-- The words a container's whole 10-bit groups spell (44_elink.md R140). -/
def Splits (c : Container) (ws : List Word10) : Prop :=
  ws.length = c.len / 10 ∧ ∀ k < c.len / 10, ∀ j < 10, ((ws.getD k 0).getLsbD j) = c.bit (10 * k + j)

/-- The 10-bit words of a list of clusters: count, timestamp, samples (30_encoding.md R74). -/
def clusterWords (cs : List Cluster) : List Word10 :=
  cs.flatMap fun c => BitVec.ofNat 10 c.samples.length :: c.ts :: c.samples

/-- The words spell exactly these clusters, at most one word left over (44_elink.md R141). -/
def Spells (ws : List Word10) (cs : List Cluster) : Prop :=
  (∀ c ∈ cs, c.samples.length < 1024) ∧ ∃ rest, ws = clusterWords cs ++ rest ∧ rest.length ≤ 1

/-- After some whole clusters the words hold a count that runs past their end (44_elink.md R141). -/
def Overruns (ws : List Word10) : Prop :=
  ∃ cs n ts rest, (∀ c ∈ cs, c.samples.length < 1024) ∧ ws = clusterWords cs ++ n :: ts :: rest ∧ rest.length < n.toNat

/-! ### Elinks -/

/-- The bank `b` once a bit `v` is stored in its container, grown by `k` doublings to hold it (44_elink.md R127). -/
def Fed (b : Elink) (v : Bool) (k : Nat) (b' : Elink) : Prop :=
  ∃ c, Holds c (b.bits.len + 1) (2 ^ k * b.bits.cap) (fun n => if n = b.bits.len then v else old b.bits n) ∧
    b' = { b with bits := c }

/-- `clear()`: length 0, all bits 0, the capacity kept (40_bit_container.md R90). -/
def emptied (c : Container) : Container := { len := 0, cap := c.cap, ones := [] }

/-- Elink `e` can take the next bit: the doublings its container needs are `k`, and they are allowed. -/
abbrev CanTake (s : State) (e : ElinkId) (k : Nat) : Prop :=
  Doublings (s.elink e).bits.cap ((s.elink e).bits.len + 1) k ∧ MayGrow s (s.elink e).bits.cap k

/-- Elink `e` can take two bits with neither growth nor a checkpoint. -/
abbrev HasRoom (s : State) (e : ElinkId) : Prop :=
  (s.elink e).bits.WF ∧ (s.elink e).bits.len + 2 < (s.elink e).checkpoint ∧ (s.elink e).bits.len + 2 ≤ (s.elink e).bits.cap

/-- Bank `b` with the pair `v0`, `v1` stored after its bits, `v0` first. -/
def FedPair (b : Elink) (v0 v1 : Bool) (b' : Elink) : Prop :=
  ∃ c, Holds c (b.bits.len + 2) b.bits.cap
      (fun n => if n = b.bits.len then v0 else if n = b.bits.len + 1 then v1 else old b.bits n) ∧
    b' = { b with bits := c }

/-- The elink state after `clear(); checkpoint <- 50` (44_elink.md R133 - R137), with the last header `h`. -/
def rearmed (b : Elink) (h : Sdh) : Elink := { b with bits := emptied b.bits, checkpoint := 50, sdh := h }

/-- `force_clear` (44_elink.md R142). -/
def forceCleared (b : Elink) : Elink := { b with nsync := 0, bits := emptied b.bits, checkpoint := 50, indata := false }

/-- Sync acquisition (44_elink.md R131). -/
def acquired (b : Elink) : Elink := { rearmed b syncPattern with nsync := 1 }

/-- The instructions that feed or clear the elink `e`. -/
def Feeds (e : ElinkId) (i : Instr) : Prop :=
  (∃ v, i = .elPush e v) ∨ (∃ v0 v1, i = .elAppend e v0 v1) ∨ i = .elForceclear e ∨ (∃ h, decode (.header e h) = .ok i) ∨
    i = .sdhSyncPatternHuntMatch e

/-! ### Frames and GBT words -/

/-- The bytes of the source not yet consumed (10_state.md R27). -/
def ahead (s : State) : List Byte := s.src.drop s.inPos

/-- `u32le` of a byte sequence (00_scope.md R15). -/
def le32 (bs : List Byte) (o : Nat) : Nat :=
  (bs.getD o 0).toNat + 2 ^ 8 * (bs.getD (o + 1) 0).toNat + 2 ^ 16 * (bs.getD (o + 2) 0).toNat +
    2 ^ 24 * (bs.getD (o + 3) 0).toNat

/-- The payload buffer `m` once the bytes `pb` are written from offset 0, every other byte as it was in `s`. -/
def Stored (s : State) (pb : List Byte) (m : Memory) : Prop :=
  m.wf ∧ ∀ a, m.read a = if a < pb.length then pb.getD a 0 else s.payload.read a

/-- The GBT word of the window at payload offset `o`: bytes 12..15, 8..11, 4, 5 of it (42_gbt_extractor.md R116). -/
def windowWord (s : State) (o : Nat) : List Byte :=
  [12, 13, 14, 15, 8, 9, 10, 11, 4, 5].map fun k => s.payload.read (o + k)

/-- The SOP marker stands in the payload (42_gbt_extractor.md R115): byte 40 is 01, bytes 28..39 and 41..43 are 00. -/
abbrev SopStands (s : State) : Prop :=
  44 ≤ s.size ∧ ∀ k < 16, s.payload.read (28 + k) = if k = 12 then 1 else 0

/-- The number of GBT words of an event of payload size `size` (42_gbt_extractor.md R118). -/
def windowCount (size : Nat) : Nat := (size - 76) / 16

/-- The 80-bit value of a GBT word, `Σ g[i] · 2^(8i)` (20_memory.md R53). -/
def wordValue (g : List Byte) : Nat := ∑ i ∈ Finset.range 10, (g.getD i 0).toNat * 2 ^ (8 * i)

/-- The elink `e` receives a pair from Dispatch: it is served and not masked (43_dispatch.md R123, R124). -/
abbrev Receives (s : State) (e : ElinkId) : Prop := e.val < 4 * s.config.nDispatchBytes ∧ s.mask.getLsbD e.val = false

/-- The pairs one GBT word sends, in ascending elink order: `(W[2e+1], W[2e])` to each elink that receives one
(43_dispatch.md R125, R126). -/
def wordAppends (s : State) (g : List Byte) : List Instr :=
  ((List.finRange 40).filter fun e => decide (Receives s e)).map fun e =>
    .elAppend e ((wordValue g).testBit (2 * e.val + 1)) ((wordValue g).testBit (2 * e.val))

/-- The packet an answer holds, if it holds one. -/
def packetsOf : Answer → List Packet
  | .returned _ (.packet (some p)) => [p]
  | _ => []

/-- Instructions executed one after another up to the first that faults, with the packets they returned. -/
def feed : List Instr → State → List Packet × State
  | [], s => ([], s)
  | i :: is, s =>
    match exec i s with
    | .next t => if t.fault = none then ((packetsOf t.result ++ (feed is t).1), (feed is t).2) else ([], t)
    | .fault _ => ([], s)
    | .refused _ => ([], s)

/-- `n` executions of one instruction. -/
def repeated (i : Instr) : Nat → State → Option State
  | 0, s => some s
  | n + 1, s =>
    match exec i s with
    | .next t => repeated i n t
    | .fault _ => none
    | .refused _ => none

/-! ### The command format (30_encoding.md R77 - R80) -/

/-- The kinds of operand field. -/
inductive Kind where
  | readHandle
  | writeHandle
  | integer
  | bit
  | uint (w : Nat)
  | bytes
  | string
  | elink
  deriving DecidableEq, Repr

/-- What a field must be to be of a kind, with `k` scratch containers (30_encoding.md R77, R78, R80). -/
def Kind.Admits (k : Nat) : Kind → Operand → Prop
  | .readHandle, .int n => (0 ≤ n ∧ n < 40) ∨ (64 ≤ n ∧ n < 64 + (k : Int) ∧ n < 256)
  | .writeHandle, .int n => 64 ≤ n ∧ n < 64 + (k : Int) ∧ n < 256
  | .integer, .int _ => True
  | .bit, .int n => n = 0 ∨ n = 1
  | .uint w, .int n => 0 ≤ n ∧ n < 2 ^ w
  | .bytes, .bytes _ => True
  | .string, .str _ => True
  | .elink, .int n => 0 ≤ n ∧ n < 40
  | _, _ => False

/-- The opcode map of 30_encoding.md R79: the operand kinds of each listed opcode. -/
def operandKinds (opcode : Nat) : Option (List Kind) :=
  match opcode with
  | 0x10 => some [.readHandle, .integer]
  | 0x11 => some [.writeHandle, .integer, .bit]
  | 0x12 => some [.writeHandle, .bit]
  | 0x13 => some [.writeHandle]
  | 0x14 => some [.writeHandle, .integer, .integer, .uint 8]
  | 0x15 => some [.writeHandle, .integer, .integer, .uint 16]
  | 0x16 => some [.writeHandle, .integer, .integer, .uint 32]
  | 0x17 => some [.writeHandle, .integer, .integer, .uint 64]
  | 0x18 => some [.readHandle, .integer, .integer]
  | 0x19 => some [.readHandle, .integer, .integer]
  | 0x1A => some [.readHandle, .integer, .integer]
  | 0x1B => some [.readHandle, .integer, .integer]
  | 0x1C => some [.writeHandle, .bytes]
  | 0x1D => some [.readHandle, .readHandle]
  | 0x1E => some [.writeHandle, .readHandle, .integer]
  | 0x1F => some [.writeHandle, .integer]
  | 0x20 => some [.readHandle, .readHandle]
  | 0x21 => some [.readHandle]
  | 0x22 => some [.readHandle]
  | 0x23 => some [.readHandle]
  | 0x24 => some [.readHandle]
  | 0x25 => some [.writeHandle, .string]
  | 0x26 => some [.writeHandle, .uint 8]
  | 0x27 => some [.writeHandle, .uint 16]
  | 0x28 => some [.writeHandle, .uint 32]
  | 0x29 => some [.writeHandle, .uint 64]
  | 0x30 => some []
  | 0x31 => some []
  | 0x40 => some [.bytes]
  | 0x41 => some []
  | 0x50 => some [.elink, .bit, .bit]
  | 0x51 => some [.elink, .bit]
  | 0x52 => some [.elink]
  | 0x53 => some [.elink]
  | 0x54 => some [.elink]
  | 0x60 => some []
  | 0x61 => some [.uint 40]
  | 0x62 => some []
  | 0x63 => some []
  | 0x7F => some [.bytes]
  | _ => none

/-- A command that 30_encoding.md R80 does not call illegal, with `k` scratch containers. -/
def Legal (k : Nat) (c : RawCommand) : Prop :=
  ∃ ks, operandKinds c.opcode.toNat = some ks ∧ List.Forall₂ (Kind.Admits k) ks c.operands

/-- The header row that PKT selects (30_encoding.md R72). -/
def rowOf (e : ElinkId) (h : Sdh) : Instr :=
  match h.toNat / 2 ^ 7 % 8 with
  | 0 => .sdhHeartbeat e (Sdh.fields h)
  | 1 => .sdhDataTruncated e (Sdh.fields h)
  | 2 => .sdhSync e (Sdh.fields h)
  | 3 => .sdhDataTruncatedTriggerTooEarly e (Sdh.fields h)
  | 4 => .sdhData e (Sdh.fields h)
  | 5 => .sdhDataNumwords e (Sdh.fields h)
  | 6 => .sdhDataTriggerTooEarly e (Sdh.fields h)
  | _ => .sdhDataTriggerTooEarlyNumwords e (Sdh.fields h)

/-- The instructions of the bit-container family, `BC.*`. -/
def isContainerCommand (i : Instr) : Bool :=
  match encode i with
  | .command c => decide (0x10 ≤ c.opcode.toNat ∧ c.opcode.toNat ≤ 0x29)
  | .hunt _ _ => false
  | .header _ _ => false

/-! ### Rules stated once for four widths -/

/-- `BC.SETR<W>` (40_bit_container.md R91) for the instruction `mk` with opcode `op`. -/
def SetrRule (w : Nat) (op : BitVec 8) (mk : Handle → Int → Int → BitVec w → Instr) : Prop :=
  ∀ (s : State) (h : Handle) (a b : Int) (x : BitVec w), s.fault = none →
    encode (mk h a b x) = .command ⟨op, [.int h.toNat, .int a, .int b, .int x.toNat]⟩ ∧
    (NoWrite s h → exec (mk h a b x) s = raises s .illegalCommand) ∧
    ∀ j c, ScratchAt s h j c → c.WF →
      (a < 0 ∨ b < a → exec (mk h a b x) s = raises s .containerRange) ∧
      (0 ≤ a → a ≤ b → (w : Int) ≤ b - a → exec (mk h a b x) s = raises s .containerWidth) ∧
      (0 ≤ a → a ≤ b → b - a < (w : Int) →
        WritesScratch s j c (b.toNat + 1) (max c.len (b.toNat + 1))
          (fun n => if a ≤ (n : Int) ∧ (n : Int) ≤ b then x.getLsbD (n - a.toNat) else old c n) (exec (mk h a b x) s))

/-- `BC.UINT<W>` (40_bit_container.md R92) for the instruction `mk` with opcode `op`, whose result is `res`. -/
def UintRule (w : Nat) (op : BitVec 8) (mk : Handle → Int → Int → Instr) (res : BitVec w → Results) : Prop :=
  ∀ (s : State) (h : Handle) (a b : Int), s.fault = none →
    encode (mk h a b) = .command ⟨op, [.int h.toNat, .int a, .int b]⟩ ∧
    (NoRead s h → exec (mk h a b) s = raises s .illegalCommand) ∧
    ∀ c b', ReadsAs s h c → b' = (if b < 0 then (c.len : Int) - 1 else b) →
      (a < 0 ∨ b' < a ∨ (c.len : Int) ≤ b' → exec (mk h a b) s = raises s .containerRange) ∧
      (0 ≤ a → a ≤ b' → b' < (c.len : Int) → (w : Int) ≤ b' - a → exec (mk h a b) s = raises s .containerWidth) ∧
      (0 ≤ a → a ≤ b' → b' < (c.len : Int) → b' - a < (w : Int) →
        ∃ x : BitVec w, exec (mk h a b) s = returns s .ok (res x) ∧
          x.toNat = ∑ k ∈ Finset.range ((b' - a).toNat + 1), (c.bit (a.toNat + k)).toNat * 2 ^ k)

/-- `BC.FROMU<W>` (40_bit_container.md R95) for the instruction `mk` with opcode `op`. -/
def FromuRule (w : Nat) (op : BitVec 8) (mk : Handle → BitVec w → Instr) : Prop :=
  ∀ (s : State) (h : Handle) (x : BitVec w), s.fault = none →
    encode (mk h x) = .command ⟨op, [.int h.toNat, .int x.toNat]⟩ ∧
    (NoWrite s h → exec (mk h x) s = raises s .illegalCommand) ∧
    ∀ j c, ScratchAt s h j c → WritesScratch s j c w w x.getLsbD (exec (mk h x) s)

/-- A data header row (44_elink.md R134) for the PKT `p` and its instruction `mk`. -/
def DataRowRule (p : BitVec 3) (mk : ElinkId → SdhFields → Instr) : Prop :=
  ∀ (s : State) (e : ElinkId) (h : Sdh) (nw : Nat), s.fault = none → Sdh.pkt h = p → nw = (Sdh.numWords h).toNat →
    decode (.header e h) = .ok (mk e (Sdh.fields h)) ∧
    (nw = 0 → exec (mk e (Sdh.fields h)) s = .next
      { bank s e (rearmed (s.elink e) h) with
        out := s.out ++ [⟨h, e, []⟩], result := .returned .ok (.packet (some ⟨h, e, []⟩)) }) ∧
    (0 < nw → exec (mk e (Sdh.fields h)) s =
      returns (bank s e { rearmed (s.elink e) h with checkpoint := 10 * nw, indata := true }) .ok (.packet none))

/-- A header-reset row (44_elink.md R136, R137) for the PKT `p` and its instruction `mk`. -/
def ResetRowRule (p : BitVec 3) (mk : ElinkId → SdhFields → Instr) : Prop :=
  ∀ (s : State) (e : ElinkId) (h : Sdh), s.fault = none → Sdh.pkt h = p →
    decode (.header e h) = .ok (mk e (Sdh.fields h)) ∧
    exec (mk e (Sdh.fields h)) s = returns (bank s e (rearmed (s.elink e) h)) .ok (.packet none)

end Sys2Proof.Claims

section

open Sys2Proof Sys2Proof.Machine Sys2Proof.Claims

/-! ## Encodings -/

/-- Decoding the encoding of any instruction gives it back: no operand bit of any encoding is dropped. -/
def Obligations.DecodeEncodeAgree : Prop := ∀ i : Instr, decode (encode i) = .ok i

/-- Every fetched unit that decodes is the encoding of what it decodes to: no two units stand for one instruction. -/
def Obligations.EncodeInvertsDecode : Prop := ∀ (f : Fetched) (i : Instr), decode f = .ok i → encode i = f

/-- The examples of 30_encoding.md R82 and the headers of 95_test_vectors.md decode to what they stand for (the form of a fetched
unit is the model's: logs 6 and 9). -/
def Obligations.SpecWordsDecode : Prop :=
  decode (.command ⟨0x15, [.int 64, .int 3, .int 10, .int 0xFF]⟩) = .ok (.bcSetr16 0x40 3 10 0xFF) ∧
  decode (.command ⟨0x50, [.int 5, .int 1, .int 0]⟩) = .ok (.elAppend 5 true false) ∧
  decode (.command ⟨0x40, [.bytes [0xB4, 0, 0, 0, 0, 0, 0, 0, 0, 0]]⟩) = .ok (.dspWord [0xB4, 0, 0, 0, 0, 0, 0, 0, 0, 0]) ∧
  decode (.command ⟨0x61, [.int 0xFFFFFFFFF0]⟩) = .ok (.cfgSetmask 0xFFFFFFFFF0) ∧
  decode (.header 0 0x7301200) = .ok (.sdhData 0 ⟨0, 0, 4, 3, 7, 0, 0⟩) ∧
  decode (.hunt 3 0x1555540F00113) = .ok (.sdhSyncPatternHuntMatch 3)

/-- The eight fields of a header are its bit slices (30_encoding.md R70). -/
def Obligations.SdhFieldsPartitionHeader : Prop :=
  ∀ h : Sdh,
    (Sdh.hamming h).toNat = h.toNat % 2 ^ 6 ∧ (Sdh.parity h).toNat = h.toNat / 2 ^ 6 % 2 ∧
    (Sdh.pkt h).toNat = h.toNat / 2 ^ 7 % 2 ^ 3 ∧ (Sdh.numWords h).toNat = h.toNat / 2 ^ 10 % 2 ^ 10 ∧
    (Sdh.hadd h).toNat = h.toNat / 2 ^ 20 % 2 ^ 4 ∧ (Sdh.chadd h).toNat = h.toNat / 2 ^ 24 % 2 ^ 5 ∧
    (Sdh.bxcount h).toNat = h.toNat / 2 ^ 29 % 2 ^ 20 ∧ (Sdh.dp h).toNat = h.toNat / 2 ^ 49

/-- Every 50-bit header decodes, to the row its PKT names (30_encoding.md R72, R81). -/
def Obligations.EveryPktNamesARow : Prop := ∀ (e : ElinkId) (h : Sdh), decode (.header e h) = .ok (rowOf e h)

/-- The sync pattern: its fields, its value, its bits in push order, its 18 ones, and no overlap with itself
(30_encoding.md R73). -/
def Obligations.SyncPatternConstant : Prop :=
  syncPattern = 0x1555540F00113#50 ∧
  Sdh.fields syncPattern = ⟨0x13, 0, 0, 0xF, 0, 0xAAAAA, 0⟩ ∧ Sdh.pkt syncPattern = 2 ∧
  ((List.range 50).map fun k => if syncPattern.getLsbD k then '1' else '0') =
    "11001000100000000000111100000010101010101010101010".toList ∧
  (List.range 50).countP (syncPattern.getLsbD ·) = 18 ∧
  ∀ k < 50, 0 < k → ∃ n < 50 - k, syncPattern.getLsbD n ≠ syncPattern.getLsbD (n + k)

/-- A command that breaks the command format raises `ILLEGAL_COMMAND` and changes nothing else; every other command decodes to a
well-formed instruction (30_encoding.md R79, R80). The host's queue `pending`, from which the command is taken, is the model's:
log 1. -/
def Obligations.IllegalCommandsRaise : Prop :=
  ∀ (s : State) (raw : RawCommand) (rest : List HostAction), s.fault = none → s.pending = .issue raw :: rest →
    (¬ Legal s.config.numScratch raw → step s = raises { s with pending := rest } .illegalCommand) ∧
    (Legal s.config.numScratch raw → ∃ i, decode (.command raw) = .ok i ∧ i.wellFormed s.config = true)

/-- What a handle names, for reading and for writing, and that a handle R78 refuses raises `ILLEGAL_COMMAND` whatever the other
operands (30_encoding.md R78, 40_bit_container.md R83). -/
def Obligations.HandlesNameContainers : Prop :=
  ∀ (s : State) (h : Handle), s.scratch.length = s.config.numScratch →
    (∀ e : ElinkId, h.toNat = e.val → s.resolveR h = some (s.elink e).bits ∧ s.resolveW h = none) ∧
    (∀ j c, ScratchAt s h j c → s.resolveR h = some c ∧ s.resolveW h = some (j, c)) ∧
    (NoRead s h → s.resolveR h = none) ∧ (NoWrite s h → s.resolveW h = none) ∧
    ∀ i : Instr, s.fault = none → i.wellFormed s.config = false → exec i s = raises s .illegalCommand

/-! ## The step, faults, reset -/

/-- A step runs the command the host issues: what it decodes to is executed, with that action taken off the front of the host's
actions (45_pipeline.md R154; the queue `pending` is the model's: log 1). -/
def Obligations.StepRunsIssuedCommand : Prop :=
  ∀ (s : State) (raw : RawCommand) (rest : List HostAction) (i : Instr),
    s.pending = .issue raw :: rest → decode (.command raw) = .ok i → step s = exec i { s with pending := rest }

/-- Between commands the host drains the head packet or does nothing (45_pipeline.md R154, 70_reset_and_hazards.md R178; the
fields `pending` and `drained` are the model's: logs 1 and 5). -/
def Obligations.HostDrainsHeadOrWaits : Prop :=
  ∀ s : State,
    (s.pending = [] → step s = .next s) ∧
    ∀ rest, s.pending = .drain :: rest →
      (s.out = [] → step s = .next { s with pending := rest }) ∧
      ∀ p ps, s.out = p :: ps → step s = .next { s with pending := rest, out := ps, drained := s.drained ++ [p] }

/-- While the block is faulted, every command but `SYS.STATUS` and `SYS.RESET` is refused with no state change, an illegal one
too; a drain is not (60_exceptions.md R161, R162; the fields `pending`, `result` and `drained` are the model's: logs 1 and 5). -/
def Obligations.FaultedBlockRefuses : Prop :=
  ∀ (s : State) (c : FatalCode), s.fault = some c →
    (∀ i : Instr, i ≠ .sysStatus → (∀ src, i ≠ .sysReset src) → exec i s = returns s .refused .nothing) ∧
    (∀ raw rest, s.pending = .issue raw :: rest → raw.opcode ≠ 0x63 → raw.opcode ≠ 0x7F →
      step s = returns { s with pending := rest } .refused .nothing) ∧
    (∃ r, exec .sysStatus s = returns s .ok r) ∧
    (∀ src, ∃ t, exec (.sysReset src) s = .next t ∧ t.fault = none ∧ t.result = .returned .ok .nothing) ∧
    ∀ p ps rest, s.pending = .drain :: rest → s.out = p :: ps →
      step s = .next { s with pending := rest, out := ps, drained := s.drained ++ [p] }

/-- Only `SYS.RESET` clears a fault, and no later fatal replaces it (60_exceptions.md R166, 10_state.md R23; the queue `pending` is
the model's: log 1). -/
def Obligations.FatalIsSticky : Prop :=
  ∀ (s t : State) (c : FatalCode), s.fault = some c → step s = .next t →
    t.fault = some c ∨
      ∃ raw rest src, s.pending = .issue raw :: rest ∧ decode (.command raw) = .ok (.sysReset src) ∧ t.fault = none

/-- The numbers of the statuses and of the fatals (60_exceptions.md R157, R159). -/
def Obligations.StatusAndFatalNumbers : Prop :=
  [Status.ok, .eof, .errEmptyEvent, .errInvalidSop, .errEndOfEvent, .errIncorrectSize, .notFound, .refused].map Status.code =
    [0, 1, 2, 3, 4, 5, 6, 7] ∧
  [FatalCode.badMagic, .shortHeader, .shortPayload, .badEventSize, .payloadTooLarge, .equipmentSizeMismatch].map
    FatalCode.code = [0x10, 0x11, 0x12, 0x13, 0x14, 0x15] ∧
  [FatalCode.syncPktMismatch, .syncPatternMismatch, .checkpointMismatch, .elinkStateInconsistent, .payloadOverrun].map
    FatalCode.code = [0x20, 0x21, 0x22, 0x23, 0x24] ∧
  [FatalCode.containerRange, .containerWidth, .containerCapacity, .containerEmptyPattern, .containerBadChar,
    .illegalCommand].map FatalCode.code = [0x30, 0x31, 0x32, 0x33, 0x34, 0x3F]

/-- `SYS.STATUS` reads the six values and changes nothing, faulted or not (45_pipeline.md R153). -/
def Obligations.SysStatusReadsBlock : Prop :=
  ∀ s : State,
    encode .sysStatus = .command ⟨0x63, []⟩ ∧
    ∃ fault phase, exec .sysStatus s =
        returns s .ok (.sysStatus fault s.halted phase s.eventsRead s.gbtWords s.out.length) ∧
      (s.fault = none → fault = 0) ∧ (∀ c, s.fault = some c → fault = c.code) ∧
      (s.rdPhase = .needEvent → phase = 0) ∧ (s.rdPhase = .loaded → phase = 1) ∧ (s.rdPhase = .inEvent → phase = 2)

/-- `SYS.RESET src` gives every field its reset value, faulted or not (70_reset_and_hazards.md R175); `hdr` and `payload`, which
R177 leaves unspecified, are not stated. -/
def Obligations.SysResetRestoresTable : Prop :=
  ∀ (s : State) (src : List Byte),
    encode (.sysReset src) = .command ⟨0x7F, [.bytes src]⟩ ∧
    ∃ t, exec (.sysReset src) s = .next t ∧ t.result = .returned .ok .nothing ∧ t.config = s.config ∧
      t.fault = none ∧ t.halted = false ∧ t.mask = 0 ∧ t.src = src ∧ t.inPos = 0 ∧ t.rdPhase = .needEvent ∧
      t.rdEof = false ∧ t.size = 0 ∧ t.gbtPos = 0 ∧ t.eventsRead = 0 ∧ t.gbtWords = 0 ∧ t.out = [] ∧
      (∀ e : ElinkId, t.elink e =
        { bits := { len := 0, cap := s.config.elinkInitCapacityBits, ones := [] }, checkpoint := 50, indata := false,
          nsync := 0, sdh := 0 }) ∧
      t.scratch = List.replicate s.config.numScratch
        { len := 0, cap := s.config.scratchInitCapacityBits, ones := [] }

/-- The machine starts in a state `SYS.RESET` produces (70_reset_and_hazards.md R176): the values of 10_state.md R45, for the byte
source and the parameters the model chose (an empty source: log 4; the defaults with `N_DISPATCH_BYTES` free in 1..10: log 2). -/
def Obligations.ResetStateHoldsTable : Prop :=
  State.reset.config.Valid ∧ State.reset.src = [] ∧
  State.reset.fault = none ∧ State.reset.halted = false ∧ State.reset.mask = 0 ∧ State.reset.inPos = 0 ∧
  State.reset.rdPhase = .needEvent ∧ State.reset.rdEof = false ∧ State.reset.size = 0 ∧ State.reset.gbtPos = 0 ∧
  State.reset.eventsRead = 0 ∧ State.reset.gbtWords = 0 ∧ State.reset.out = [] ∧
  (∀ e : ElinkId, State.reset.elink e =
    { bits := { len := 0, cap := 100000, ones := [] }, checkpoint := 50, indata := false, nsync := 0, sdh := 0 }) ∧
  State.reset.scratch = List.replicate 4 { len := 0, cap := 64, ones := [] }

/-- The state after reset meets the invariant, for all parameters in their ranges and every byte source. -/
def Obligations.ResetIsSound : Prop :=
  State.reset.Inv ∧ ∀ (cfg : Config) (src : List Byte), cfg.Valid → (State.resetWith cfg src).Inv

/-- Every step keeps the invariant of Safety.lean: the canonical forms, length against checkpoint in each elink state, no `indata`
without sync, the reader's positions, and packets that fit their headers (10_state.md R31 - R40, 44_elink.md R132, R133, R139). -/
def Obligations.StepKeepsInvariant : Prop := ∀ s t : State, s.Inv → step s = .next t → t.Inv

/-- Every step answers a next state, and none writes the parameters (00_scope.md R17, 10_state.md R26). -/
def Obligations.StepAlwaysAnswers : Prop := ∀ s : State, ∃ t, step s = .next t ∧ t.config = s.config

/-- A command other than `SYS.RESET` only appends to the output queue, and takes nothing from it (10_state.md R44). -/
def Obligations.OutputGrowsAtTail : Prop :=
  ∀ (s t : State) (i : Instr), (∀ src, i ≠ .sysReset src) → exec i s = .next t →
    t.drained = s.drained ∧ ∃ ps, t.out = s.out ++ ps

/-! ## The bit container -/

/-- `grow` doubles the capacity until it holds the need, or refuses beyond the limit with the container unchanged; from a
capacity of at least 1 the doubling ends (40_bit_container.md R84). -/
def Obligations.GrowDoublesOrRefuses : Prop :=
  ∀ (max need : Nat) (c : Container), 1 ≤ c.cap →
    ∃ k, Doublings c.cap need k ∧
      (k = 0 ∨ 2 ^ k * c.cap ≤ max → c.grow max need = some { c with cap := 2 ^ k * c.cap }) ∧
      (0 < k → max < 2 ^ k * c.cap → c.grow max need = none)

/-- `BC.GET` (40_bit_container.md R87). -/
def Obligations.BcGetReadsBit : Prop :=
  ∀ (s : State) (h : Handle) (i : Int), s.fault = none →
    encode (.bcGet h i) = .command ⟨0x10, [.int h.toNat, .int i]⟩ ∧
    (NoRead s h → exec (.bcGet h i) s = raises s .illegalCommand) ∧
    ∀ c, ReadsAs s h c →
      (i < 0 ∨ (c.len : Int) ≤ i → exec (.bcGet h i) s = raises s .containerRange) ∧
      (0 ≤ i → i < (c.len : Int) → exec (.bcGet h i) s = returns s .ok (.bit (c.bit i.toNat)))

/-- `BC.SET` (40_bit_container.md R88): the bit, the length, the gap of zeros, the growth. -/
def Obligations.BcSetWritesBit : Prop :=
  ∀ (s : State) (h : Handle) (i : Int) (v : Bool), s.fault = none →
    encode (.bcSet h i v) = .command ⟨0x11, [.int h.toNat, .int i, .int (if v then 1 else 0)]⟩ ∧
    (NoWrite s h → exec (.bcSet h i v) s = raises s .illegalCommand) ∧
    ∀ j c, ScratchAt s h j c → c.WF →
      (i < 0 → exec (.bcSet h i v) s = raises s .containerRange) ∧
      (0 ≤ i → WritesScratch s j c (i.toNat + 1) (max c.len (i.toNat + 1)) (fun n => if n = i.toNat then v else old c n)
        (exec (.bcSet h i v) s))

/-- `BC.APPEND` is `BC.SET` at the length (40_bit_container.md R89). -/
def Obligations.BcAppendWritesAtLength : Prop :=
  ∀ (s : State) (h : Handle) (v : Bool), s.fault = none →
    encode (.bcAppend h v) = .command ⟨0x12, [.int h.toNat, .int (if v then 1 else 0)]⟩ ∧
    (NoWrite s h → exec (.bcAppend h v) s = raises s .illegalCommand) ∧
    ∀ j c, ScratchAt s h j c → c.WF →
      exec (.bcAppend h v) s = exec (.bcSet h c.len v) s ∧
      WritesScratch s j c (c.len + 1) (c.len + 1) (fun n => if n = c.len then v else old c n) (exec (.bcAppend h v) s)

/-- `BC.CLEAR` empties the container and keeps its capacity (40_bit_container.md R90). -/
def Obligations.BcClearEmpties : Prop :=
  ∀ (s : State) (h : Handle), s.fault = none →
    encode (.bcClear h) = .command ⟨0x13, [.int h.toNat]⟩ ∧
    (NoWrite s h → exec (.bcClear h) s = raises s .illegalCommand) ∧
    ∀ j c, ScratchAt s h j c → ∃ c', Holds c' 0 c.cap (fun _ => false) ∧ exec (.bcClear h) s = wrote s j c'

/-- `BC.SETR8`, `BC.SETR16`, `BC.SETR32`, `BC.SETR64` (40_bit_container.md R91). -/
def Obligations.BcSetrWritesRange : Prop :=
  SetrRule 8 0x14 .bcSetr8 ∧ SetrRule 16 0x15 .bcSetr16 ∧ SetrRule 32 0x16 .bcSetr32 ∧ SetrRule 64 0x17 .bcSetr64

/-- `BC.UINT8`, `BC.UINT16`, `BC.UINT32`, `BC.UINT64` (40_bit_container.md R92). -/
def Obligations.BcUintReadsRange : Prop :=
  UintRule 8 0x18 .bcUint8 .u8 ∧ UintRule 16 0x19 .bcUint16 .u16 ∧ UintRule 32 0x1A .bcUint32 .u32 ∧
    UintRule 64 0x1B .bcUint64 .u64

/-- `BC.SETBYTES` (40_bit_container.md R93): bit `8 i + k` is bit `k` of byte `i`. -/
def Obligations.BcSetbytesReplacesContent : Prop :=
  ∀ (s : State) (h : Handle) (bs : List Byte), s.fault = none →
    encode (.bcSetbytes h bs) = .command ⟨0x1C, [.int h.toNat, .bytes bs]⟩ ∧
    (NoWrite s h → exec (.bcSetbytes h bs) s = raises s .illegalCommand) ∧
    ∀ j c, ScratchAt s h j c →
      WritesScratch s j c (8 * bs.length) (8 * bs.length) (fun n => (bs.getD (n / 8) 0).getLsbD (n % 8))
        (exec (.bcSetbytes h bs) s)

/-- `BC.FROMSTR` (40_bit_container.md R94): character `k` becomes bit `k`. -/
def Obligations.BcFromstrReplacesContent : Prop :=
  ∀ (s : State) (h : Handle) (cs : List Char), s.fault = none →
    encode (.bcFromstr h cs) = .command ⟨0x25, [.int h.toNat, .str cs]⟩ ∧
    (NoWrite s h → exec (.bcFromstr h cs) s = raises s .illegalCommand) ∧
    ∀ j c, ScratchAt s h j c →
      ((∃ ch ∈ cs, ch ≠ '0' ∧ ch ≠ '1') → exec (.bcFromstr h cs) s = raises s .containerBadChar) ∧
      ((∀ ch ∈ cs, ch = '0' ∨ ch = '1') →
        WritesScratch s j c cs.length cs.length (fun n => decide (cs[n]? = some '1')) (exec (.bcFromstr h cs) s))

/-- `BC.FROMU8`, `BC.FROMU16`, `BC.FROMU32`, `BC.FROMU64` (40_bit_container.md R95). -/
def Obligations.BcFromuReplacesContent : Prop :=
  FromuRule 8 0x26 .bcFromu8 ∧ FromuRule 16 0x27 .bcFromu16 ∧ FromuRule 32 0x28 .bcFromu32 ∧ FromuRule 64 0x29 .bcFromu64

/-- `BC.SEARCH` finds the smallest start, or answers `NOT_FOUND` (40_bit_container.md R96). -/
def Obligations.BcSearchFindsFirst : Prop :=
  ∀ (s : State) (h p : Handle), s.fault = none →
    encode (.bcSearch h p) = .command ⟨0x1D, [.int h.toNat, .int p.toNat]⟩ ∧
    (NoRead s h ∨ NoRead s p → exec (.bcSearch h p) s = raises s .illegalCommand) ∧
    ∀ c q, ReadsAs s h c → ReadsAs s p q →
      (q.len = 0 → exec (.bcSearch h p) s = raises s .containerEmptyPattern) ∧
      (0 < q.len →
        (∀ i, i + q.len ≤ c.len → (∀ k < q.len, c.bit (i + k) = q.bit k) →
          (∀ i' < i, ∃ k < q.len, c.bit (i' + k) ≠ q.bit k) → exec (.bcSearch h p) s = returns s .ok (.nat i)) ∧
        ((∀ i, i + q.len ≤ c.len → ∃ k < q.len, c.bit (i + k) ≠ q.bit k) →
          exec (.bcSearch h p) s = returns s .notFound .nothing))

/-- `BC.LAST` copies the last `n` bits, also onto its own source (40_bit_container.md R97). -/
def Obligations.BcLastCopiesTail : Prop :=
  ∀ (s : State) (d h : Handle) (n : Int), s.fault = none →
    encode (.bcLast d h n) = .command ⟨0x1E, [.int d.toNat, .int h.toNat, .int n]⟩ ∧
    (NoRead s h ∨ NoWrite s d → exec (.bcLast d h n) s = raises s .illegalCommand) ∧
    ∀ c j t, ReadsAs s h c → c.WF → ScratchAt s d j t →
      (n < 0 ∨ (c.len : Int) < n → exec (.bcLast d h n) s = raises s .containerRange) ∧
      (0 ≤ n → n ≤ (c.len : Int) →
        WritesScratch s j t n.toNat n.toNat (fun k => decide (k < n.toNat) && c.bit (c.len - n.toNat + k))
          (exec (.bcLast d h n) s))

/-- `BC.PRUNE` drops the first `n` bits and reads none beyond the length (40_bit_container.md R98). -/
def Obligations.BcPruneDropsHead : Prop :=
  ∀ (s : State) (h : Handle) (n : Int), s.fault = none →
    encode (.bcPrune h n) = .command ⟨0x1F, [.int h.toNat, .int n]⟩ ∧
    (NoWrite s h → exec (.bcPrune h n) s = raises s .illegalCommand) ∧
    ∀ j c, ScratchAt s h j c → c.WF →
      (n < 0 ∨ (c.len : Int) < n → exec (.bcPrune h n) s = raises s .containerRange) ∧
      (0 ≤ n → n ≤ (c.len : Int) →
        ∃ c', Holds c' (c.len - n.toNat) c.cap (fun k => old c (k + n.toNat)) ∧ exec (.bcPrune h n) s = wrote s j c')

/-- `BC.EQUAL` compares lengths and bits, never capacities (40_bit_container.md R99). -/
def Obligations.BcEqualComparesBits : Prop :=
  ∀ (s : State) (h p : Handle), s.fault = none →
    encode (.bcEqual h p) = .command ⟨0x20, [.int h.toNat, .int p.toNat]⟩ ∧
    (NoRead s h ∨ NoRead s p → exec (.bcEqual h p) s = raises s .illegalCommand) ∧
    ∀ c q, ReadsAs s h c → ReadsAs s p q →
      (c.len = q.len ∧ (∀ k < c.len, c.bit k = q.bit k) → exec (.bcEqual h p) s = returns s .ok (.bit true)) ∧
      (¬ (c.len = q.len ∧ ∀ k < c.len, c.bit k = q.bit k) → exec (.bcEqual h p) s = returns s .ok (.bit false))

/-- `BC.COUNT`, `BC.LEN`, `BC.STRL`, `BC.STRR` (40_bit_container.md R100 - R103). -/
def Obligations.BcReadOuts : Prop :=
  ∀ (s : State) (h : Handle), s.fault = none →
    encode (.bcCount h) = .command ⟨0x21, [.int h.toNat]⟩ ∧ encode (.bcLen h) = .command ⟨0x22, [.int h.toNat]⟩ ∧
    encode (.bcStrl h) = .command ⟨0x23, [.int h.toNat]⟩ ∧ encode (.bcStrr h) = .command ⟨0x24, [.int h.toNat]⟩ ∧
    (NoRead s h → exec (.bcCount h) s = raises s .illegalCommand ∧ exec (.bcLen h) s = raises s .illegalCommand ∧
      exec (.bcStrl h) s = raises s .illegalCommand ∧ exec (.bcStrr h) s = raises s .illegalCommand) ∧
    ∀ c, ReadsAs s h c →
      exec (.bcCount h) s = returns s .ok (.nat (∑ k ∈ Finset.range c.len, (c.bit k).toNat)) ∧
      exec (.bcLen h) s = returns s .ok (.nat c.len) ∧
      exec (.bcStrl h) s =
        returns s .ok (.string (List.ofFn fun k : Fin c.len => if c.bit k.val then '1' else '0')) ∧
      exec (.bcStrr h) s =
        returns s .ok (.string (List.ofFn fun k : Fin c.len => if c.bit (c.len - 1 - k.val) then '1' else '0'))

/-- The source's bit-container invariants, over two commands each (40_bit_container.md R104). -/
def Obligations.ContainerLaws : Prop :=
  (∀ (s t : State) (h : Handle) (i : Int), exec (.bcSet h i true) s = .next t → t.fault = none →
    exec (.bcGet h i) t = returns t .ok (.bit true) ∧ ∃ n : Nat, exec (.bcLen h) t = returns t .ok (.nat n) ∧ i + 1 ≤ n) ∧
  (∀ (s t : State) (h : Handle) (x : BitVec 8), exec (.bcFromu8 h x) s = .next t → t.fault = none →
    exec (.bcUint8 h 0 7) t = returns t .ok (.u8 x)) ∧
  (∀ (s t : State) (h : Handle) (x : BitVec 16), exec (.bcFromu16 h x) s = .next t → t.fault = none →
    exec (.bcUint16 h 0 15) t = returns t .ok (.u16 x)) ∧
  (∀ (s t : State) (h : Handle) (x : BitVec 32), exec (.bcFromu32 h x) s = .next t → t.fault = none →
    exec (.bcUint32 h 0 31) t = returns t .ok (.u32 x)) ∧
  (∀ (s t : State) (h : Handle) (x : BitVec 64), exec (.bcFromu64 h x) s = .next t → t.fault = none →
    exec (.bcUint64 h 0 63) t = returns t .ok (.u64 x)) ∧
  (∀ (s t : State) (h : Handle) (cs : List Char), exec (.bcFromstr h cs) s = .next t → t.fault = none →
    exec (.bcStrl h) t = returns t .ok (.string cs)) ∧
  ∀ (s : State) (h : Handle) (a b i : Int), 0 ≤ a → a ≤ i → i ≤ b → s.fault = none →
    (∀ x, exec (.bcUint8 h a b) s = returns s .ok (.u8 x) →
      exec (.bcGet h i) s = returns s .ok (.bit (x.getLsbD (i - a).toNat))) ∧
    (∀ x, exec (.bcUint16 h a b) s = returns s .ok (.u16 x) →
      exec (.bcGet h i) s = returns s .ok (.bit (x.getLsbD (i - a).toNat))) ∧
    (∀ x, exec (.bcUint32 h a b) s = returns s .ok (.u32 x) →
      exec (.bcGet h i) s = returns s .ok (.bit (x.getLsbD (i - a).toNat))) ∧
    (∀ x, exec (.bcUint64 h a b) s = returns s .ok (.u64 x) →
      exec (.bcGet h i) s = returns s .ok (.bit (x.getLsbD (i - a).toNat)))

/-- A container command that faults writes no bit, no length and no capacity: only the fault is recorded
(40_bit_container.md R86). -/
def Obligations.FailedContainerCommandsWriteNothing : Prop :=
  ∀ (s t : State) (i : Instr) (c : FatalCode), isContainerCommand i = true → s.fault = none → exec i s = .next t →
    t.fault = some c → exec i s = raises s c

/-! ## The reader -/

/-- `RD.NEXTEVENT` (41_frame_reader.md R105 - R113): the end of the source, each fatal with the state it leaves, the empty event,
and a frame with its payload; every byte of the payload buffer outside the frame's payload is as before. -/
def Obligations.NextEventReadsOneFrame : Prop :=
  ∀ s : State, s.fault = none → s.payload.wf →
    encode .rdNextevent = .command ⟨0x30, []⟩ ∧
    (s.rdEof = true → exec .rdNextevent s = returns s .eof .nothing) ∧
    (s.rdEof = false → ahead s = [] → exec .rdNextevent s = returns { s with rdEof := true } .eof .nothing) ∧
    (s.rdEof = false → 0 < (ahead s).length → (ahead s).length < 80 →
      exec .rdNextevent s = raises { s with inPos := s.src.length } .shortHeader) ∧
    ∀ (hb : Vector Byte 80) (rest : List Byte) (t : State), s.rdEof = false → ahead s = hb.toList ++ rest →
      t = { s with inPos := s.inPos + 80, hdr := hb } →
      (le32 hb.toList 4 ≠ 0xDA1E5AFE → exec .rdNextevent s = raises t .badMagic) ∧
      (le32 hb.toList 4 = 0xDA1E5AFE →
        (le32 hb.toList 0 < 80 → exec .rdNextevent s = raises t .badEventSize) ∧
        (le32 hb.toList 0 = 80 → exec .rdNextevent s =
          returns { t with size := 0, rdPhase := .loaded, eventsRead := s.eventsRead + 1 } .ok (.event hb.toList [] 0)) ∧
        (80 + s.config.maxPayloadBytes < le32 hb.toList 0 → 80 < le32 hb.toList 0 →
          exec .rdNextevent s = raises t .payloadTooLarge) ∧
        (80 < le32 hb.toList 0 → le32 hb.toList 0 ≤ 80 + s.config.maxPayloadBytes →
          (80 + rest.length < le32 hb.toList 0 →
            exec .rdNextevent s = raises { t with inPos := s.src.length } .shortPayload) ∧
          ∀ pb rest', rest = pb ++ rest' → 80 + pb.length = le32 hb.toList 0 →
            ∃ m, Stored s pb m ∧
              (pb.length < 4 ∨ le32 pb 0 ≠ pb.length → exec .rdNextevent s =
                raises { t with inPos := s.inPos + 80 + pb.length, payload := m, size := pb.length }
                  .equipmentSizeMismatch) ∧
              (4 ≤ pb.length → le32 pb 0 = pb.length → exec .rdNextevent s =
                returns { t with
                    inPos := s.inPos + 80 + pb.length, payload := m, size := pb.length, rdPhase := .loaded,
                    eventsRead := s.eventsRead + 1 }
                  .ok (.event hb.toList pb pb.length))))

/-- `RD.NEXTGBT` (42_gbt_extractor.md R114 - R117), phase by phase. -/
def Obligations.NextGbtWalksEvent : Prop :=
  ∀ s : State, s.fault = none →
    encode .rdNextgbt = .command ⟨0x31, []⟩ ∧
    (s.rdEof = true → exec .rdNextgbt s = returns s .eof .nothing) ∧
    (s.rdEof = false → s.rdPhase = .needEvent → ∀ t, exec .rdNextevent s = .next t →
      (t.fault ≠ none → exec .rdNextgbt s = .next t) ∧
      (t.result = .returned .eof .nothing → exec .rdNextgbt s = .next t) ∧
      (t.fault = none → t.rdPhase = .loaded → exec .rdNextgbt s = exec .rdNextgbt t)) ∧
    (s.rdEof = false → s.rdPhase = .loaded →
      (s.size = 0 → exec .rdNextgbt s = returns { s with rdPhase := .needEvent } .errEmptyEvent .nothing) ∧
      (0 < s.size → ¬ SopStands s →
        exec .rdNextgbt s = returns { s with rdPhase := .needEvent } .errInvalidSop .nothing) ∧
      (SopStands s → exec .rdNextgbt s = exec .rdNextgbt { s with gbtPos := 44, rdPhase := .inEvent })) ∧
    (s.rdEof = false → s.rdPhase = .inEvent →
      (s.gbtPos + 16 + 32 ≤ s.size → exec .rdNextgbt s =
        returns { s with gbtPos := s.gbtPos + 16, gbtWords := s.gbtWords + 1 } .ok (.gbt (windowWord s s.gbtPos))) ∧
      (s.size < s.gbtPos + 16 + 32 →
        exec .rdNextgbt s = returns { s with rdPhase := .needEvent } .errEndOfEvent .nothing))

/-- A loaded event with a good SOP yields its `K` windows in order, each once, and then one `ERR_END_OF_EVENT`
(42_gbt_extractor.md R118). -/
def Obligations.EventYieldsItsWords : Prop :=
  ∀ s : State, s.fault = none → s.rdEof = false → s.rdPhase = .loaded → SopStands s →
    (∀ k < windowCount s.size, ∃ t u, repeated .rdNextgbt k s = some t ∧ exec .rdNextgbt t = .next u ∧
      u.result = .returned .ok (.gbt (windowWord s (44 + 16 * k)))) ∧
    ∃ t u, repeated .rdNextgbt (windowCount s.size) s = some t ∧ exec .rdNextgbt t = .next u ∧
      u.result = .returned .errEndOfEvent .nothing ∧ u.rdPhase = .needEvent ∧
      u.gbtWords = s.gbtWords + windowCount s.size ∧ u.eventsRead = s.eventsRead ∧ u.inPos = s.inPos

/-! ## Dispatch -/

/-- `DSP.WORD` is the `EL.APPEND`s of its pairs, in ascending elink order, to the elinks that are served and not masked, up to the
first that faults; its packets are theirs (43_dispatch.md R120 - R126). -/
def Obligations.DspWordIsAppends : Prop :=
  ∀ (s : State) (g : List Byte), s.fault = none → s.config.nDispatchBytes ≤ 10 →
    encode (.dspWord g) = .command ⟨0x40, [.bytes g]⟩ ∧
    (g.length ≠ 10 → exec (.dspWord g) s = returns s .errIncorrectSize .nothing) ∧
    ∀ ps t, g.length = 10 → feed (wordAppends s g) s = (ps, t) →
      (t.fault = none → exec (.dspWord g) s = returns t .ok (.packets ps)) ∧
      (t.fault ≠ none → exec (.dspWord g) s = .next t)

/-- Where no elink that receives a pair reaches its checkpoint, `DSP.WORD` answers OK with no packet, each such elink holds its two
bits more, and no other elink changes (43_dispatch.md R120, R125). -/
def Obligations.DspWordDeliversPairs : Prop :=
  ∀ (s : State) (g : List Byte), s.fault = none → s.config.nDispatchBytes ≤ 10 → g.length = 10 →
    (∀ e, Receives s e → HasRoom s e) →
    ∃ t, exec (.dspWord g) s = returns t .ok (.packets []) ∧ t = { s with elinks := t.elinks } ∧
      ∀ e : ElinkId,
        (Receives s e → FedPair (s.elink e) ((wordValue g).testBit (2 * e.val + 1)) ((wordValue g).testBit (2 * e.val))
          (t.elink e)) ∧
        (¬ Receives s e → t.elink e = s.elink e)

/-- An elink that is masked or not served keeps its bank through `DSP.WORD`, and through a `PL.STEP` that meets no event boundary,
whatever the other elinks do (43_dispatch.md R123, R124). -/
def Obligations.SkippedElinksKeepBanks : Prop :=
  ∀ (s t : State) (e : ElinkId), s.config.nDispatchBytes ≤ 10 → ¬ Receives s e →
    (∀ g, exec (.dspWord g) s = .next t → t.elink e = s.elink e) ∧
    (exec .plStep s = .next t → t.result ≠ .returned .errEndOfEvent .nothing → t.elink e = s.elink e)

/-- `DSP.CLEARALL` force-clears all forty elinks, masked ones too, and touches nothing else (43_dispatch.md R121). -/
def Obligations.ClearallForceClearsEvery : Prop :=
  ∀ s : State, s.fault = none →
    encode .dspClearall = .command ⟨0x41, []⟩ ∧
    exec .dspClearall s = returns { s with elinks := s.elinks.map forceCleared } .ok .nothing

/-! ## The elink -/

/-- `EL.PUSH` and `EL.APPEND` short of the checkpoint: the bits stored in order; growth or its refusal; and the inconsistent flags
caught when the checkpoint is reached (44_elink.md R127, R128, R130). -/
def Obligations.ElPushStoresBit : Prop :=
  ∀ (s : State) (e : ElinkId) (v v1 : Bool) (k : Nat), s.fault = none → (s.elink e).bits.WF →
    Doublings (s.elink e).bits.cap ((s.elink e).bits.len + 1) k →
    encode (.elPush e v) = .command ⟨0x51, [.int e.val, .int (if v then 1 else 0)]⟩ ∧
    encode (.elAppend e v v1) = .command ⟨0x50, [.int e.val, .int (if v then 1 else 0), .int (if v1 then 1 else 0)]⟩ ∧
    (¬ MayGrow s (s.elink e).bits.cap k → exec (.elPush e v) s = raises s .containerCapacity) ∧
    (MayGrow s (s.elink e).bits.cap k → ∃ b', Fed (s.elink e) v k b' ∧
      ((s.elink e).bits.len + 1 ≠ (s.elink e).checkpoint →
        exec (.elPush e v) s = returns (bank s e b') .ok (.packet none)) ∧
      ((s.elink e).bits.len + 1 = (s.elink e).checkpoint → (s.elink e).indata = true → (s.elink e).nsync = 0 →
        exec (.elPush e v) s = raises (bank s e b') .elinkStateInconsistent)) ∧
    (HasRoom s e → ∃ b', FedPair (s.elink e) v v1 b' ∧
      exec (.elAppend e v v1) s = returns (bank s e b') .ok (.packet none))

/-- `EL.APPEND` is two pushes, bit0 first; a fault of the first stops it; at most one of them returns a packet
(44_elink.md R128, R129). -/
def Obligations.ElAppendIsTwoPushes : Prop :=
  ∀ (s t : State) (e : ElinkId) (v0 v1 : Bool), s.fault = none → exec (.elPush e v0) s = .next t →
    (t.fault ≠ none → exec (.elAppend e v0 v1) s = .next t) ∧
    (t.fault = none → ∃ u, exec (.elPush e v1) t = .next u ∧
      (u.fault ≠ none → exec (.elAppend e v0 v1) s = .next u) ∧
      (u.fault = none → ∃ p0 p1, t.result = .returned .ok (.packet p0) ∧ u.result = .returned .ok (.packet p1) ∧
        (p0 = none ∨ p1 = none) ∧
        exec (.elAppend e v0 v1) s = returns u .ok (.packet (if p0 = none then p1 else p0))))

/-- HUNT (44_elink.md R131): the newest 50 bits are compared with the sync pattern; a match acquires, anything else slides the
checkpoint by one bit and keeps the bits. The first clause executes the HUNT match row directly, on a bank in any state and with
any bits: that form of the row is the model's choice (log 9); its effect is the acquisition. -/
def Obligations.HuntSlidesOrAcquires : Prop :=
  ∀ (s : State) (e : ElinkId), s.fault = none →
    exec (.sdhSyncPatternHuntMatch e) s = returns (bank s e (acquired (s.elink e))) .ok (.packet none) ∧
    ∀ (v : Bool) (k : Nat) (b' : Elink), (s.elink e).bits.WF → (s.elink e).indata = false → (s.elink e).nsync = 0 →
      (s.elink e).bits.len + 1 = (s.elink e).checkpoint → 50 ≤ (s.elink e).checkpoint → CanTake s e k →
      Fed (s.elink e) v k b' →
      ((∀ n < 50, b'.bits.bit ((s.elink e).checkpoint - 50 + n) = syncPattern.getLsbD n) →
        exec (.elPush e v) s = returns (bank s e (acquired b')) .ok (.packet none)) ∧
      (¬ (∀ n < 50, b'.bits.bit ((s.elink e).checkpoint - 50 + n) = syncPattern.getLsbD n) →
        exec (.elPush e v) s = returns (bank s e { b' with checkpoint := (s.elink e).checkpoint + 1 }) .ok (.packet none))

/-- HEADER (44_elink.md R133): the 50th bit runs the header row that the 50 bits decode to, on the bank that holds them. -/
def Obligations.HeaderBitRunsItsRow : Prop :=
  ∀ (s : State) (e : ElinkId) (v : Bool) (k : Nat) (b' : Elink) (h : Sdh), s.fault = none → (s.elink e).bits.WF →
    (s.elink e).indata = false → 1 ≤ (s.elink e).nsync → (s.elink e).bits.len = 49 → (s.elink e).checkpoint = 50 →
    CanTake s e k → Fed (s.elink e) v k b' → (∀ n < 50, h.getLsbD n = b'.bits.bit n) →
    decode (.header e h) = .ok (rowOf e h) ∧ exec (.elPush e v) s = exec (rowOf e h) (bank s e b')

/-- The five data header rows (44_elink.md R134), the header stored first (R133). That a row is executed directly, on a bank in any
state, is the model's choice (log 9). -/
def Obligations.DataHeadersEnterData : Prop :=
  DataRowRule 1 .sdhDataTruncated ∧ DataRowRule 3 .sdhDataTruncatedTriggerTooEarly ∧ DataRowRule 4 .sdhData ∧
    DataRowRule 6 .sdhDataTriggerTooEarly ∧ DataRowRule 7 .sdhDataTriggerTooEarlyNumwords

/-- The Sync header row (44_elink.md R135): counted when all 50 bits are the pattern, fatal otherwise, the header stored in both
cases (R133). That the row is executed directly, on a bank in any state, is the model's choice (log 9). -/
def Obligations.SyncHeaderCountsOrFaults : Prop :=
  ∀ (s : State) (e : ElinkId) (h : Sdh), s.fault = none → Sdh.pkt h = 2 →
    decode (.header e h) = .ok (.sdhSync e (Sdh.fields h)) ∧
    (h = syncPattern → exec (.sdhSync e (Sdh.fields h)) s =
      returns (bank s e { rearmed (s.elink e) h with nsync := (s.elink e).nsync + 1 }) .ok (.packet none)) ∧
    (h ≠ syncPattern → exec (.sdhSync e (Sdh.fields h)) s =
      raises (bank s e { s.elink e with sdh := h }) .syncPatternMismatch)

/-- The heartbeat row and the DataNumWords row (44_elink.md R136, R137), the header stored first (R133). That a row is executed
directly, on a bank in any state, is the model's choice (log 9). -/
def Obligations.ResetHeadersRearm : Prop := ResetRowRule 0 .sdhHeartbeat ∧ ResetRowRule 5 .sdhDataNumwords

/-- DATA (44_elink.md R139 - R141): the last payload bit completes the packet whose clusters the 10-bit words spell, or raises
`PAYLOAD_OVERRUN` with the payload kept; one of the two always. -/
def Obligations.DataBitCompletesPacket : Prop :=
  ∀ (s : State) (e : ElinkId) (v : Bool) (k : Nat) (b' : Elink) (ws : List Word10), s.fault = none →
    (s.elink e).bits.WF → (s.elink e).indata = true → 1 ≤ (s.elink e).nsync →
    (s.elink e).bits.len + 1 = (s.elink e).checkpoint → CanTake s e k → Fed (s.elink e) v k b' → Splits b'.bits ws →
    ((∃ cs, Spells ws cs) ∨ Overruns ws) ∧
    (∀ cs, Spells ws cs → exec (.elPush e v) s = .next
      { bank s e { b' with bits := emptied b'.bits, checkpoint := 50, indata := false } with
        out := s.out ++ [⟨(s.elink e).sdh, e, cs⟩]
        result := .returned .ok (.packet (some ⟨(s.elink e).sdh, e, cs⟩)) }) ∧
    (Overruns ws → exec (.elPush e v) s = raises (bank s e b') .payloadOverrun)

/-- `EL.FORCECLEAR` (44_elink.md R142): the header and the capacity stay. -/
def Obligations.ForceclearReturnsToHunt : Prop :=
  ∀ (s : State) (e : ElinkId), s.fault = none →
    encode (.elForceclear e) = .command ⟨0x52, [.int e.val]⟩ ∧
    exec (.elForceclear e) s = returns (bank s e (forceCleared (s.elink e))) .ok .nothing

/-- `EL.ISEMPTY` and `EL.READ` (44_elink.md R143, R144), the state coded from the flags (10_state.md R37). -/
def Obligations.ElReadsBank : Prop :=
  ∀ (s : State) (e : ElinkId), s.fault = none →
    encode (.elIsempty e) = .command ⟨0x53, [.int e.val]⟩ ∧ encode (.elRead e) = .command ⟨0x54, [.int e.val]⟩ ∧
    exec (.elIsempty e) s = returns s .ok (.bit (decide ((s.elink e).bits.len = 0))) ∧
    ∃ state, exec (.elRead e) s =
        returns s .ok (.bank state (s.elink e).nsync (s.elink e).indata (s.elink e).checkpoint (s.elink e).bits.len
          (s.elink e).sdh) ∧
      ((s.elink e).indata = false → (s.elink e).nsync = 0 → state = 0) ∧
      ((s.elink e).indata = false → 1 ≤ (s.elink e).nsync → state = 1) ∧
      ((s.elink e).indata = true → state = 2)

/-- Elinks share no state (44_elink.md R146): what feeds elink `e` changes only its bank, the output queue and the fault, and does
to it the same whatever the rest of the block holds. -/
def Obligations.ElinksShareNothing : Prop :=
  (∀ (s t : State) (e : ElinkId) (i : Instr), Feeds e i → exec i s = .next t →
    t = { s with elinks := t.elinks, out := t.out, fault := t.fault, result := t.result } ∧
    ∀ e' ≠ e, t.elink e' = s.elink e') ∧
  ∀ (s s' t t' : State) (e : ElinkId) (i : Instr), Feeds e i → exec i s = .next t → exec i s' = .next t' →
    s.elink e = s'.elink e → s.config = s'.config → s.fault = s'.fault →
    t.elink e = t'.elink e ∧ t.fault = t'.fault ∧ t.result = t'.result ∧
      ∃ ps, t.out = s.out ++ ps ∧ t'.out = s'.out ++ ps

/-! ## The pipeline and the configuration -/

/-- `PL.STEP` (45_pipeline.md R147): what it does on each answer of the extractor. -/
def Obligations.PlStepFollowsExtractor : Prop :=
  ∀ s t : State, s.fault = none →
    encode .plStep = .command ⟨0x60, []⟩ ∧
    (s.halted = true → exec .plStep s = returns s .eof .nothing) ∧
    (s.halted = false → exec .rdNextgbt s = .next t →
      (t.fault ≠ none → exec .plStep s = .next t) ∧
      (∀ g, t.result = .returned .ok (.gbt g) → ∃ u, exec (.dspWord g) t = .next u ∧
        (u.fault = none → exec .plStep s = returns u .ok .nothing) ∧ (u.fault ≠ none → exec .plStep s = .next u)) ∧
      (t.result = .returned .errEmptyEvent .nothing → exec .plStep s = .next t) ∧
      (t.result = .returned .errInvalidSop .nothing → exec .plStep s = .next t) ∧
      (t.result = .returned .errEndOfEvent .nothing → s.config.resyncAtEventBoundary = true →
        exec .plStep s = returns { t with elinks := t.elinks.map forceCleared } .errEndOfEvent .nothing) ∧
      (t.result = .returned .errEndOfEvent .nothing → s.config.resyncAtEventBoundary = false →
        exec .plStep s = .next t) ∧
      (t.result = .returned .eof .nothing → exec .plStep s = .next { t with halted := true }))

/-- Inside an event with a window left, where no elink that receives a pair reaches its checkpoint, `PL.STEP` answers OK: one
window consumed and its pairs delivered (45_pipeline.md R147). -/
def Obligations.PlStepDeliversWindow : Prop :=
  ∀ s : State, s.fault = none → s.halted = false → s.rdEof = false → s.rdPhase = .inEvent →
    s.gbtPos + 16 + 32 ≤ s.size → s.config.nDispatchBytes ≤ 10 → (∀ e, Receives s e → HasRoom s e) →
    ∃ t, exec .plStep s = returns t .ok .nothing ∧
      t = { s with elinks := t.elinks, gbtPos := s.gbtPos + 16, gbtWords := s.gbtWords + 1 } ∧
      ∀ e : ElinkId,
        (Receives s e → FedPair (s.elink e) ((wordValue (windowWord s s.gbtPos)).testBit (2 * e.val + 1))
          ((wordValue (windowWord s s.gbtPos)).testBit (2 * e.val)) (t.elink e)) ∧
        (¬ Receives s e → t.elink e = s.elink e)

/-- A run ends (45_pipeline.md R149): from any state, repeated `PL.STEP`s halt the block or fault it, within a number of steps
bounded by the bytes of the source and the payload not yet consumed. -/
def Obligations.RunEnds : Prop :=
  ∀ s : State, ∃ n ≤ (ahead s).length + s.size + 3, ∃ t, repeated .plStep n s = some t ∧ (t.halted = true ∨ t.fault ≠ none)

/-- `CFG.SETMASK` and `CFG.GETMASK` (45_pipeline.md R151, R152): any 40-bit value, nothing else touched. -/
def Obligations.MaskIsWrittenAndRead : Prop :=
  ∀ (s : State) (m : BitVec 40), s.fault = none →
    encode (.cfgSetmask m) = .command ⟨0x61, [.int m.toNat]⟩ ∧ encode .cfgGetmask = .command ⟨0x62, []⟩ ∧
    exec (.cfgSetmask m) s = returns { s with mask := m } .ok .nothing ∧
    exec .cfgGetmask s = returns s .ok (.mask s.mask)

end
end

