-- ==== Sys2Proof/Laws/State.lean ====
section
/-! SUPPORT. One lemma per field per named update of State, each true by rfl, so that no proof unfolds an update; and what the
bank accessor reads after each update. -/

namespace Sys2Proof.Machine

@[simp] theorem State.withResult_fault (s : State) (r : Answer) : (s.withResult r).fault = s.fault := rfl
@[simp] theorem State.withResult_halted (s : State) (r : Answer) : (s.withResult r).halted = s.halted := rfl
@[simp] theorem State.withResult_mask (s : State) (r : Answer) : (s.withResult r).mask = s.mask := rfl
@[simp] theorem State.withResult_src (s : State) (r : Answer) : (s.withResult r).src = s.src := rfl
@[simp] theorem State.withResult_inPos (s : State) (r : Answer) : (s.withResult r).inPos = s.inPos := rfl
@[simp] theorem State.withResult_rdPhase (s : State) (r : Answer) : (s.withResult r).rdPhase = s.rdPhase := rfl
@[simp] theorem State.withResult_rdEof (s : State) (r : Answer) : (s.withResult r).rdEof = s.rdEof := rfl
@[simp] theorem State.withResult_hdr (s : State) (r : Answer) : (s.withResult r).hdr = s.hdr := rfl
@[simp] theorem State.withResult_payload (s : State) (r : Answer) : (s.withResult r).payload = s.payload := rfl
@[simp] theorem State.withResult_size (s : State) (r : Answer) : (s.withResult r).size = s.size := rfl
@[simp] theorem State.withResult_gbtPos (s : State) (r : Answer) : (s.withResult r).gbtPos = s.gbtPos := rfl
@[simp] theorem State.withResult_eventsRead (s : State) (r : Answer) : (s.withResult r).eventsRead = s.eventsRead := rfl
@[simp] theorem State.withResult_gbtWords (s : State) (r : Answer) : (s.withResult r).gbtWords = s.gbtWords := rfl
@[simp] theorem State.withResult_elinks (s : State) (r : Answer) : (s.withResult r).elinks = s.elinks := rfl
@[simp] theorem State.withResult_scratch (s : State) (r : Answer) : (s.withResult r).scratch = s.scratch := rfl
@[simp] theorem State.withResult_out (s : State) (r : Answer) : (s.withResult r).out = s.out := rfl
@[simp] theorem State.withResult_config (s : State) (r : Answer) : (s.withResult r).config = s.config := rfl
@[simp] theorem State.withResult_pending (s : State) (r : Answer) : (s.withResult r).pending = s.pending := rfl
@[simp] theorem State.withResult_result (s : State) (r : Answer) : (s.withResult r).result = r := rfl
@[simp] theorem State.withResult_drained (s : State) (r : Answer) : (s.withResult r).drained = s.drained := rfl
@[simp] theorem State.withResult_elink (s : State) (r : Answer) (e' : ElinkId) : (s.withResult r).elink e' = s.elink e' := rfl

@[simp] theorem State.withFault_fault (s : State) (c : FatalCode) : (s.withFault c).fault = some c := rfl
@[simp] theorem State.withFault_halted (s : State) (c : FatalCode) : (s.withFault c).halted = s.halted := rfl
@[simp] theorem State.withFault_mask (s : State) (c : FatalCode) : (s.withFault c).mask = s.mask := rfl
@[simp] theorem State.withFault_src (s : State) (c : FatalCode) : (s.withFault c).src = s.src := rfl
@[simp] theorem State.withFault_inPos (s : State) (c : FatalCode) : (s.withFault c).inPos = s.inPos := rfl
@[simp] theorem State.withFault_rdPhase (s : State) (c : FatalCode) : (s.withFault c).rdPhase = s.rdPhase := rfl
@[simp] theorem State.withFault_rdEof (s : State) (c : FatalCode) : (s.withFault c).rdEof = s.rdEof := rfl
@[simp] theorem State.withFault_hdr (s : State) (c : FatalCode) : (s.withFault c).hdr = s.hdr := rfl
@[simp] theorem State.withFault_payload (s : State) (c : FatalCode) : (s.withFault c).payload = s.payload := rfl
@[simp] theorem State.withFault_size (s : State) (c : FatalCode) : (s.withFault c).size = s.size := rfl
@[simp] theorem State.withFault_gbtPos (s : State) (c : FatalCode) : (s.withFault c).gbtPos = s.gbtPos := rfl
@[simp] theorem State.withFault_eventsRead (s : State) (c : FatalCode) : (s.withFault c).eventsRead = s.eventsRead := rfl
@[simp] theorem State.withFault_gbtWords (s : State) (c : FatalCode) : (s.withFault c).gbtWords = s.gbtWords := rfl
@[simp] theorem State.withFault_elinks (s : State) (c : FatalCode) : (s.withFault c).elinks = s.elinks := rfl
@[simp] theorem State.withFault_scratch (s : State) (c : FatalCode) : (s.withFault c).scratch = s.scratch := rfl
@[simp] theorem State.withFault_out (s : State) (c : FatalCode) : (s.withFault c).out = s.out := rfl
@[simp] theorem State.withFault_config (s : State) (c : FatalCode) : (s.withFault c).config = s.config := rfl
@[simp] theorem State.withFault_pending (s : State) (c : FatalCode) : (s.withFault c).pending = s.pending := rfl
@[simp] theorem State.withFault_result (s : State) (c : FatalCode) : (s.withFault c).result = s.result := rfl
@[simp] theorem State.withFault_drained (s : State) (c : FatalCode) : (s.withFault c).drained = s.drained := rfl
@[simp] theorem State.withFault_elink (s : State) (c : FatalCode) (e' : ElinkId) : (s.withFault c).elink e' = s.elink e' := rfl

@[simp] theorem State.halt_fault (s : State) : s.halt.fault = s.fault := rfl
@[simp] theorem State.halt_halted (s : State) : s.halt.halted = true := rfl
@[simp] theorem State.halt_mask (s : State) : s.halt.mask = s.mask := rfl
@[simp] theorem State.halt_src (s : State) : s.halt.src = s.src := rfl
@[simp] theorem State.halt_inPos (s : State) : s.halt.inPos = s.inPos := rfl
@[simp] theorem State.halt_rdPhase (s : State) : s.halt.rdPhase = s.rdPhase := rfl
@[simp] theorem State.halt_rdEof (s : State) : s.halt.rdEof = s.rdEof := rfl
@[simp] theorem State.halt_hdr (s : State) : s.halt.hdr = s.hdr := rfl
@[simp] theorem State.halt_payload (s : State) : s.halt.payload = s.payload := rfl
@[simp] theorem State.halt_size (s : State) : s.halt.size = s.size := rfl
@[simp] theorem State.halt_gbtPos (s : State) : s.halt.gbtPos = s.gbtPos := rfl
@[simp] theorem State.halt_eventsRead (s : State) : s.halt.eventsRead = s.eventsRead := rfl
@[simp] theorem State.halt_gbtWords (s : State) : s.halt.gbtWords = s.gbtWords := rfl
@[simp] theorem State.halt_elinks (s : State) : s.halt.elinks = s.elinks := rfl
@[simp] theorem State.halt_scratch (s : State) : s.halt.scratch = s.scratch := rfl
@[simp] theorem State.halt_out (s : State) : s.halt.out = s.out := rfl
@[simp] theorem State.halt_config (s : State) : s.halt.config = s.config := rfl
@[simp] theorem State.halt_pending (s : State) : s.halt.pending = s.pending := rfl
@[simp] theorem State.halt_result (s : State) : s.halt.result = s.result := rfl
@[simp] theorem State.halt_drained (s : State) : s.halt.drained = s.drained := rfl
@[simp] theorem State.halt_elink (s : State) (e' : ElinkId) : s.halt.elink e' = s.elink e' := rfl

@[simp] theorem State.withMask_fault (s : State) (m : BitVec 40) : (s.withMask m).fault = s.fault := rfl
@[simp] theorem State.withMask_halted (s : State) (m : BitVec 40) : (s.withMask m).halted = s.halted := rfl
@[simp] theorem State.withMask_mask (s : State) (m : BitVec 40) : (s.withMask m).mask = m := rfl
@[simp] theorem State.withMask_src (s : State) (m : BitVec 40) : (s.withMask m).src = s.src := rfl
@[simp] theorem State.withMask_inPos (s : State) (m : BitVec 40) : (s.withMask m).inPos = s.inPos := rfl
@[simp] theorem State.withMask_rdPhase (s : State) (m : BitVec 40) : (s.withMask m).rdPhase = s.rdPhase := rfl
@[simp] theorem State.withMask_rdEof (s : State) (m : BitVec 40) : (s.withMask m).rdEof = s.rdEof := rfl
@[simp] theorem State.withMask_hdr (s : State) (m : BitVec 40) : (s.withMask m).hdr = s.hdr := rfl
@[simp] theorem State.withMask_payload (s : State) (m : BitVec 40) : (s.withMask m).payload = s.payload := rfl
@[simp] theorem State.withMask_size (s : State) (m : BitVec 40) : (s.withMask m).size = s.size := rfl
@[simp] theorem State.withMask_gbtPos (s : State) (m : BitVec 40) : (s.withMask m).gbtPos = s.gbtPos := rfl
@[simp] theorem State.withMask_eventsRead (s : State) (m : BitVec 40) : (s.withMask m).eventsRead = s.eventsRead := rfl
@[simp] theorem State.withMask_gbtWords (s : State) (m : BitVec 40) : (s.withMask m).gbtWords = s.gbtWords := rfl
@[simp] theorem State.withMask_elinks (s : State) (m : BitVec 40) : (s.withMask m).elinks = s.elinks := rfl
@[simp] theorem State.withMask_scratch (s : State) (m : BitVec 40) : (s.withMask m).scratch = s.scratch := rfl
@[simp] theorem State.withMask_out (s : State) (m : BitVec 40) : (s.withMask m).out = s.out := rfl
@[simp] theorem State.withMask_config (s : State) (m : BitVec 40) : (s.withMask m).config = s.config := rfl
@[simp] theorem State.withMask_pending (s : State) (m : BitVec 40) : (s.withMask m).pending = s.pending := rfl
@[simp] theorem State.withMask_result (s : State) (m : BitVec 40) : (s.withMask m).result = s.result := rfl
@[simp] theorem State.withMask_drained (s : State) (m : BitVec 40) : (s.withMask m).drained = s.drained := rfl
@[simp] theorem State.withMask_elink (s : State) (m : BitVec 40) (e' : ElinkId) : (s.withMask m).elink e' = s.elink e' := rfl

@[simp] theorem State.withInPos_fault (s : State) (n : Nat) : (s.withInPos n).fault = s.fault := rfl
@[simp] theorem State.withInPos_halted (s : State) (n : Nat) : (s.withInPos n).halted = s.halted := rfl
@[simp] theorem State.withInPos_mask (s : State) (n : Nat) : (s.withInPos n).mask = s.mask := rfl
@[simp] theorem State.withInPos_src (s : State) (n : Nat) : (s.withInPos n).src = s.src := rfl
@[simp] theorem State.withInPos_inPos (s : State) (n : Nat) : (s.withInPos n).inPos = n := rfl
@[simp] theorem State.withInPos_rdPhase (s : State) (n : Nat) : (s.withInPos n).rdPhase = s.rdPhase := rfl
@[simp] theorem State.withInPos_rdEof (s : State) (n : Nat) : (s.withInPos n).rdEof = s.rdEof := rfl
@[simp] theorem State.withInPos_hdr (s : State) (n : Nat) : (s.withInPos n).hdr = s.hdr := rfl
@[simp] theorem State.withInPos_payload (s : State) (n : Nat) : (s.withInPos n).payload = s.payload := rfl
@[simp] theorem State.withInPos_size (s : State) (n : Nat) : (s.withInPos n).size = s.size := rfl
@[simp] theorem State.withInPos_gbtPos (s : State) (n : Nat) : (s.withInPos n).gbtPos = s.gbtPos := rfl
@[simp] theorem State.withInPos_eventsRead (s : State) (n : Nat) : (s.withInPos n).eventsRead = s.eventsRead := rfl
@[simp] theorem State.withInPos_gbtWords (s : State) (n : Nat) : (s.withInPos n).gbtWords = s.gbtWords := rfl
@[simp] theorem State.withInPos_elinks (s : State) (n : Nat) : (s.withInPos n).elinks = s.elinks := rfl
@[simp] theorem State.withInPos_scratch (s : State) (n : Nat) : (s.withInPos n).scratch = s.scratch := rfl
@[simp] theorem State.withInPos_out (s : State) (n : Nat) : (s.withInPos n).out = s.out := rfl
@[simp] theorem State.withInPos_config (s : State) (n : Nat) : (s.withInPos n).config = s.config := rfl
@[simp] theorem State.withInPos_pending (s : State) (n : Nat) : (s.withInPos n).pending = s.pending := rfl
@[simp] theorem State.withInPos_result (s : State) (n : Nat) : (s.withInPos n).result = s.result := rfl
@[simp] theorem State.withInPos_drained (s : State) (n : Nat) : (s.withInPos n).drained = s.drained := rfl
@[simp] theorem State.withInPos_elink (s : State) (n : Nat) (e' : ElinkId) : (s.withInPos n).elink e' = s.elink e' := rfl

@[simp] theorem State.withPhase_fault (s : State) (p : RdPhase) : (s.withPhase p).fault = s.fault := rfl
@[simp] theorem State.withPhase_halted (s : State) (p : RdPhase) : (s.withPhase p).halted = s.halted := rfl
@[simp] theorem State.withPhase_mask (s : State) (p : RdPhase) : (s.withPhase p).mask = s.mask := rfl
@[simp] theorem State.withPhase_src (s : State) (p : RdPhase) : (s.withPhase p).src = s.src := rfl
@[simp] theorem State.withPhase_inPos (s : State) (p : RdPhase) : (s.withPhase p).inPos = s.inPos := rfl
@[simp] theorem State.withPhase_rdPhase (s : State) (p : RdPhase) : (s.withPhase p).rdPhase = p := rfl
@[simp] theorem State.withPhase_rdEof (s : State) (p : RdPhase) : (s.withPhase p).rdEof = s.rdEof := rfl
@[simp] theorem State.withPhase_hdr (s : State) (p : RdPhase) : (s.withPhase p).hdr = s.hdr := rfl
@[simp] theorem State.withPhase_payload (s : State) (p : RdPhase) : (s.withPhase p).payload = s.payload := rfl
@[simp] theorem State.withPhase_size (s : State) (p : RdPhase) : (s.withPhase p).size = s.size := rfl
@[simp] theorem State.withPhase_gbtPos (s : State) (p : RdPhase) : (s.withPhase p).gbtPos = s.gbtPos := rfl
@[simp] theorem State.withPhase_eventsRead (s : State) (p : RdPhase) : (s.withPhase p).eventsRead = s.eventsRead := rfl
@[simp] theorem State.withPhase_gbtWords (s : State) (p : RdPhase) : (s.withPhase p).gbtWords = s.gbtWords := rfl
@[simp] theorem State.withPhase_elinks (s : State) (p : RdPhase) : (s.withPhase p).elinks = s.elinks := rfl
@[simp] theorem State.withPhase_scratch (s : State) (p : RdPhase) : (s.withPhase p).scratch = s.scratch := rfl
@[simp] theorem State.withPhase_out (s : State) (p : RdPhase) : (s.withPhase p).out = s.out := rfl
@[simp] theorem State.withPhase_config (s : State) (p : RdPhase) : (s.withPhase p).config = s.config := rfl
@[simp] theorem State.withPhase_pending (s : State) (p : RdPhase) : (s.withPhase p).pending = s.pending := rfl
@[simp] theorem State.withPhase_result (s : State) (p : RdPhase) : (s.withPhase p).result = s.result := rfl
@[simp] theorem State.withPhase_drained (s : State) (p : RdPhase) : (s.withPhase p).drained = s.drained := rfl
@[simp] theorem State.withPhase_elink (s : State) (p : RdPhase) (e' : ElinkId) : (s.withPhase p).elink e' = s.elink e' := rfl

@[simp] theorem State.endSource_fault (s : State) : s.endSource.fault = s.fault := rfl
@[simp] theorem State.endSource_halted (s : State) : s.endSource.halted = s.halted := rfl
@[simp] theorem State.endSource_mask (s : State) : s.endSource.mask = s.mask := rfl
@[simp] theorem State.endSource_src (s : State) : s.endSource.src = s.src := rfl
@[simp] theorem State.endSource_inPos (s : State) : s.endSource.inPos = s.inPos := rfl
@[simp] theorem State.endSource_rdPhase (s : State) : s.endSource.rdPhase = s.rdPhase := rfl
@[simp] theorem State.endSource_rdEof (s : State) : s.endSource.rdEof = true := rfl
@[simp] theorem State.endSource_hdr (s : State) : s.endSource.hdr = s.hdr := rfl
@[simp] theorem State.endSource_payload (s : State) : s.endSource.payload = s.payload := rfl
@[simp] theorem State.endSource_size (s : State) : s.endSource.size = s.size := rfl
@[simp] theorem State.endSource_gbtPos (s : State) : s.endSource.gbtPos = s.gbtPos := rfl
@[simp] theorem State.endSource_eventsRead (s : State) : s.endSource.eventsRead = s.eventsRead := rfl
@[simp] theorem State.endSource_gbtWords (s : State) : s.endSource.gbtWords = s.gbtWords := rfl
@[simp] theorem State.endSource_elinks (s : State) : s.endSource.elinks = s.elinks := rfl
@[simp] theorem State.endSource_scratch (s : State) : s.endSource.scratch = s.scratch := rfl
@[simp] theorem State.endSource_out (s : State) : s.endSource.out = s.out := rfl
@[simp] theorem State.endSource_config (s : State) : s.endSource.config = s.config := rfl
@[simp] theorem State.endSource_pending (s : State) : s.endSource.pending = s.pending := rfl
@[simp] theorem State.endSource_result (s : State) : s.endSource.result = s.result := rfl
@[simp] theorem State.endSource_drained (s : State) : s.endSource.drained = s.drained := rfl
@[simp] theorem State.endSource_elink (s : State) (e' : ElinkId) : s.endSource.elink e' = s.elink e' := rfl

@[simp] theorem State.withHdr_fault (s : State) (v : Vector Byte 80) : (s.withHdr v).fault = s.fault := rfl
@[simp] theorem State.withHdr_halted (s : State) (v : Vector Byte 80) : (s.withHdr v).halted = s.halted := rfl
@[simp] theorem State.withHdr_mask (s : State) (v : Vector Byte 80) : (s.withHdr v).mask = s.mask := rfl
@[simp] theorem State.withHdr_src (s : State) (v : Vector Byte 80) : (s.withHdr v).src = s.src := rfl
@[simp] theorem State.withHdr_inPos (s : State) (v : Vector Byte 80) : (s.withHdr v).inPos = s.inPos := rfl
@[simp] theorem State.withHdr_rdPhase (s : State) (v : Vector Byte 80) : (s.withHdr v).rdPhase = s.rdPhase := rfl
@[simp] theorem State.withHdr_rdEof (s : State) (v : Vector Byte 80) : (s.withHdr v).rdEof = s.rdEof := rfl
@[simp] theorem State.withHdr_hdr (s : State) (v : Vector Byte 80) : (s.withHdr v).hdr = v := rfl
@[simp] theorem State.withHdr_payload (s : State) (v : Vector Byte 80) : (s.withHdr v).payload = s.payload := rfl
@[simp] theorem State.withHdr_size (s : State) (v : Vector Byte 80) : (s.withHdr v).size = s.size := rfl
@[simp] theorem State.withHdr_gbtPos (s : State) (v : Vector Byte 80) : (s.withHdr v).gbtPos = s.gbtPos := rfl
@[simp] theorem State.withHdr_eventsRead (s : State) (v : Vector Byte 80) : (s.withHdr v).eventsRead = s.eventsRead := rfl
@[simp] theorem State.withHdr_gbtWords (s : State) (v : Vector Byte 80) : (s.withHdr v).gbtWords = s.gbtWords := rfl
@[simp] theorem State.withHdr_elinks (s : State) (v : Vector Byte 80) : (s.withHdr v).elinks = s.elinks := rfl
@[simp] theorem State.withHdr_scratch (s : State) (v : Vector Byte 80) : (s.withHdr v).scratch = s.scratch := rfl
@[simp] theorem State.withHdr_out (s : State) (v : Vector Byte 80) : (s.withHdr v).out = s.out := rfl
@[simp] theorem State.withHdr_config (s : State) (v : Vector Byte 80) : (s.withHdr v).config = s.config := rfl
@[simp] theorem State.withHdr_pending (s : State) (v : Vector Byte 80) : (s.withHdr v).pending = s.pending := rfl
@[simp] theorem State.withHdr_result (s : State) (v : Vector Byte 80) : (s.withHdr v).result = s.result := rfl
@[simp] theorem State.withHdr_drained (s : State) (v : Vector Byte 80) : (s.withHdr v).drained = s.drained := rfl
@[simp] theorem State.withHdr_elink (s : State) (v : Vector Byte 80) (e' : ElinkId) : (s.withHdr v).elink e' = s.elink e' := rfl

@[simp] theorem State.withPayload_fault (s : State) (m : Memory) : (s.withPayload m).fault = s.fault := rfl
@[simp] theorem State.withPayload_halted (s : State) (m : Memory) : (s.withPayload m).halted = s.halted := rfl
@[simp] theorem State.withPayload_mask (s : State) (m : Memory) : (s.withPayload m).mask = s.mask := rfl
@[simp] theorem State.withPayload_src (s : State) (m : Memory) : (s.withPayload m).src = s.src := rfl
@[simp] theorem State.withPayload_inPos (s : State) (m : Memory) : (s.withPayload m).inPos = s.inPos := rfl
@[simp] theorem State.withPayload_rdPhase (s : State) (m : Memory) : (s.withPayload m).rdPhase = s.rdPhase := rfl
@[simp] theorem State.withPayload_rdEof (s : State) (m : Memory) : (s.withPayload m).rdEof = s.rdEof := rfl
@[simp] theorem State.withPayload_hdr (s : State) (m : Memory) : (s.withPayload m).hdr = s.hdr := rfl
@[simp] theorem State.withPayload_payload (s : State) (m : Memory) : (s.withPayload m).payload = m := rfl
@[simp] theorem State.withPayload_size (s : State) (m : Memory) : (s.withPayload m).size = s.size := rfl
@[simp] theorem State.withPayload_gbtPos (s : State) (m : Memory) : (s.withPayload m).gbtPos = s.gbtPos := rfl
@[simp] theorem State.withPayload_eventsRead (s : State) (m : Memory) : (s.withPayload m).eventsRead = s.eventsRead := rfl
@[simp] theorem State.withPayload_gbtWords (s : State) (m : Memory) : (s.withPayload m).gbtWords = s.gbtWords := rfl
@[simp] theorem State.withPayload_elinks (s : State) (m : Memory) : (s.withPayload m).elinks = s.elinks := rfl
@[simp] theorem State.withPayload_scratch (s : State) (m : Memory) : (s.withPayload m).scratch = s.scratch := rfl
@[simp] theorem State.withPayload_out (s : State) (m : Memory) : (s.withPayload m).out = s.out := rfl
@[simp] theorem State.withPayload_config (s : State) (m : Memory) : (s.withPayload m).config = s.config := rfl
@[simp] theorem State.withPayload_pending (s : State) (m : Memory) : (s.withPayload m).pending = s.pending := rfl
@[simp] theorem State.withPayload_result (s : State) (m : Memory) : (s.withPayload m).result = s.result := rfl
@[simp] theorem State.withPayload_drained (s : State) (m : Memory) : (s.withPayload m).drained = s.drained := rfl
@[simp] theorem State.withPayload_elink (s : State) (m : Memory) (e' : ElinkId) : (s.withPayload m).elink e' = s.elink e' := rfl

@[simp] theorem State.withSize_fault (s : State) (n : Nat) : (s.withSize n).fault = s.fault := rfl
@[simp] theorem State.withSize_halted (s : State) (n : Nat) : (s.withSize n).halted = s.halted := rfl
@[simp] theorem State.withSize_mask (s : State) (n : Nat) : (s.withSize n).mask = s.mask := rfl
@[simp] theorem State.withSize_src (s : State) (n : Nat) : (s.withSize n).src = s.src := rfl
@[simp] theorem State.withSize_inPos (s : State) (n : Nat) : (s.withSize n).inPos = s.inPos := rfl
@[simp] theorem State.withSize_rdPhase (s : State) (n : Nat) : (s.withSize n).rdPhase = s.rdPhase := rfl
@[simp] theorem State.withSize_rdEof (s : State) (n : Nat) : (s.withSize n).rdEof = s.rdEof := rfl
@[simp] theorem State.withSize_hdr (s : State) (n : Nat) : (s.withSize n).hdr = s.hdr := rfl
@[simp] theorem State.withSize_payload (s : State) (n : Nat) : (s.withSize n).payload = s.payload := rfl
@[simp] theorem State.withSize_size (s : State) (n : Nat) : (s.withSize n).size = n := rfl
@[simp] theorem State.withSize_gbtPos (s : State) (n : Nat) : (s.withSize n).gbtPos = s.gbtPos := rfl
@[simp] theorem State.withSize_eventsRead (s : State) (n : Nat) : (s.withSize n).eventsRead = s.eventsRead := rfl
@[simp] theorem State.withSize_gbtWords (s : State) (n : Nat) : (s.withSize n).gbtWords = s.gbtWords := rfl
@[simp] theorem State.withSize_elinks (s : State) (n : Nat) : (s.withSize n).elinks = s.elinks := rfl
@[simp] theorem State.withSize_scratch (s : State) (n : Nat) : (s.withSize n).scratch = s.scratch := rfl
@[simp] theorem State.withSize_out (s : State) (n : Nat) : (s.withSize n).out = s.out := rfl
@[simp] theorem State.withSize_config (s : State) (n : Nat) : (s.withSize n).config = s.config := rfl
@[simp] theorem State.withSize_pending (s : State) (n : Nat) : (s.withSize n).pending = s.pending := rfl
@[simp] theorem State.withSize_result (s : State) (n : Nat) : (s.withSize n).result = s.result := rfl
@[simp] theorem State.withSize_drained (s : State) (n : Nat) : (s.withSize n).drained = s.drained := rfl
@[simp] theorem State.withSize_elink (s : State) (n : Nat) (e' : ElinkId) : (s.withSize n).elink e' = s.elink e' := rfl

@[simp] theorem State.withGbtPos_fault (s : State) (n : Nat) : (s.withGbtPos n).fault = s.fault := rfl
@[simp] theorem State.withGbtPos_halted (s : State) (n : Nat) : (s.withGbtPos n).halted = s.halted := rfl
@[simp] theorem State.withGbtPos_mask (s : State) (n : Nat) : (s.withGbtPos n).mask = s.mask := rfl
@[simp] theorem State.withGbtPos_src (s : State) (n : Nat) : (s.withGbtPos n).src = s.src := rfl
@[simp] theorem State.withGbtPos_inPos (s : State) (n : Nat) : (s.withGbtPos n).inPos = s.inPos := rfl
@[simp] theorem State.withGbtPos_rdPhase (s : State) (n : Nat) : (s.withGbtPos n).rdPhase = s.rdPhase := rfl
@[simp] theorem State.withGbtPos_rdEof (s : State) (n : Nat) : (s.withGbtPos n).rdEof = s.rdEof := rfl
@[simp] theorem State.withGbtPos_hdr (s : State) (n : Nat) : (s.withGbtPos n).hdr = s.hdr := rfl
@[simp] theorem State.withGbtPos_payload (s : State) (n : Nat) : (s.withGbtPos n).payload = s.payload := rfl
@[simp] theorem State.withGbtPos_size (s : State) (n : Nat) : (s.withGbtPos n).size = s.size := rfl
@[simp] theorem State.withGbtPos_gbtPos (s : State) (n : Nat) : (s.withGbtPos n).gbtPos = n := rfl
@[simp] theorem State.withGbtPos_eventsRead (s : State) (n : Nat) : (s.withGbtPos n).eventsRead = s.eventsRead := rfl
@[simp] theorem State.withGbtPos_gbtWords (s : State) (n : Nat) : (s.withGbtPos n).gbtWords = s.gbtWords := rfl
@[simp] theorem State.withGbtPos_elinks (s : State) (n : Nat) : (s.withGbtPos n).elinks = s.elinks := rfl
@[simp] theorem State.withGbtPos_scratch (s : State) (n : Nat) : (s.withGbtPos n).scratch = s.scratch := rfl
@[simp] theorem State.withGbtPos_out (s : State) (n : Nat) : (s.withGbtPos n).out = s.out := rfl
@[simp] theorem State.withGbtPos_config (s : State) (n : Nat) : (s.withGbtPos n).config = s.config := rfl
@[simp] theorem State.withGbtPos_pending (s : State) (n : Nat) : (s.withGbtPos n).pending = s.pending := rfl
@[simp] theorem State.withGbtPos_result (s : State) (n : Nat) : (s.withGbtPos n).result = s.result := rfl
@[simp] theorem State.withGbtPos_drained (s : State) (n : Nat) : (s.withGbtPos n).drained = s.drained := rfl
@[simp] theorem State.withGbtPos_elink (s : State) (n : Nat) (e' : ElinkId) : (s.withGbtPos n).elink e' = s.elink e' := rfl

@[simp] theorem State.countEvent_fault (s : State) : s.countEvent.fault = s.fault := rfl
@[simp] theorem State.countEvent_halted (s : State) : s.countEvent.halted = s.halted := rfl
@[simp] theorem State.countEvent_mask (s : State) : s.countEvent.mask = s.mask := rfl
@[simp] theorem State.countEvent_src (s : State) : s.countEvent.src = s.src := rfl
@[simp] theorem State.countEvent_inPos (s : State) : s.countEvent.inPos = s.inPos := rfl
@[simp] theorem State.countEvent_rdPhase (s : State) : s.countEvent.rdPhase = s.rdPhase := rfl
@[simp] theorem State.countEvent_rdEof (s : State) : s.countEvent.rdEof = s.rdEof := rfl
@[simp] theorem State.countEvent_hdr (s : State) : s.countEvent.hdr = s.hdr := rfl
@[simp] theorem State.countEvent_payload (s : State) : s.countEvent.payload = s.payload := rfl
@[simp] theorem State.countEvent_size (s : State) : s.countEvent.size = s.size := rfl
@[simp] theorem State.countEvent_gbtPos (s : State) : s.countEvent.gbtPos = s.gbtPos := rfl
@[simp] theorem State.countEvent_eventsRead (s : State) : s.countEvent.eventsRead = s.eventsRead + 1 := rfl
@[simp] theorem State.countEvent_gbtWords (s : State) : s.countEvent.gbtWords = s.gbtWords := rfl
@[simp] theorem State.countEvent_elinks (s : State) : s.countEvent.elinks = s.elinks := rfl
@[simp] theorem State.countEvent_scratch (s : State) : s.countEvent.scratch = s.scratch := rfl
@[simp] theorem State.countEvent_out (s : State) : s.countEvent.out = s.out := rfl
@[simp] theorem State.countEvent_config (s : State) : s.countEvent.config = s.config := rfl
@[simp] theorem State.countEvent_pending (s : State) : s.countEvent.pending = s.pending := rfl
@[simp] theorem State.countEvent_result (s : State) : s.countEvent.result = s.result := rfl
@[simp] theorem State.countEvent_drained (s : State) : s.countEvent.drained = s.drained := rfl
@[simp] theorem State.countEvent_elink (s : State) (e' : ElinkId) : s.countEvent.elink e' = s.elink e' := rfl

@[simp] theorem State.countGbt_fault (s : State) : s.countGbt.fault = s.fault := rfl
@[simp] theorem State.countGbt_halted (s : State) : s.countGbt.halted = s.halted := rfl
@[simp] theorem State.countGbt_mask (s : State) : s.countGbt.mask = s.mask := rfl
@[simp] theorem State.countGbt_src (s : State) : s.countGbt.src = s.src := rfl
@[simp] theorem State.countGbt_inPos (s : State) : s.countGbt.inPos = s.inPos := rfl
@[simp] theorem State.countGbt_rdPhase (s : State) : s.countGbt.rdPhase = s.rdPhase := rfl
@[simp] theorem State.countGbt_rdEof (s : State) : s.countGbt.rdEof = s.rdEof := rfl
@[simp] theorem State.countGbt_hdr (s : State) : s.countGbt.hdr = s.hdr := rfl
@[simp] theorem State.countGbt_payload (s : State) : s.countGbt.payload = s.payload := rfl
@[simp] theorem State.countGbt_size (s : State) : s.countGbt.size = s.size := rfl
@[simp] theorem State.countGbt_gbtPos (s : State) : s.countGbt.gbtPos = s.gbtPos := rfl
@[simp] theorem State.countGbt_eventsRead (s : State) : s.countGbt.eventsRead = s.eventsRead := rfl
@[simp] theorem State.countGbt_gbtWords (s : State) : s.countGbt.gbtWords = s.gbtWords + 1 := rfl
@[simp] theorem State.countGbt_elinks (s : State) : s.countGbt.elinks = s.elinks := rfl
@[simp] theorem State.countGbt_scratch (s : State) : s.countGbt.scratch = s.scratch := rfl
@[simp] theorem State.countGbt_out (s : State) : s.countGbt.out = s.out := rfl
@[simp] theorem State.countGbt_config (s : State) : s.countGbt.config = s.config := rfl
@[simp] theorem State.countGbt_pending (s : State) : s.countGbt.pending = s.pending := rfl
@[simp] theorem State.countGbt_result (s : State) : s.countGbt.result = s.result := rfl
@[simp] theorem State.countGbt_drained (s : State) : s.countGbt.drained = s.drained := rfl
@[simp] theorem State.countGbt_elink (s : State) (e' : ElinkId) : s.countGbt.elink e' = s.elink e' := rfl

@[simp] theorem State.withElink_fault (s : State) (e : ElinkId) (b : Elink) : (s.withElink e b).fault = s.fault := rfl
@[simp] theorem State.withElink_halted (s : State) (e : ElinkId) (b : Elink) : (s.withElink e b).halted = s.halted := rfl
@[simp] theorem State.withElink_mask (s : State) (e : ElinkId) (b : Elink) : (s.withElink e b).mask = s.mask := rfl
@[simp] theorem State.withElink_src (s : State) (e : ElinkId) (b : Elink) : (s.withElink e b).src = s.src := rfl
@[simp] theorem State.withElink_inPos (s : State) (e : ElinkId) (b : Elink) : (s.withElink e b).inPos = s.inPos := rfl
@[simp] theorem State.withElink_rdPhase (s : State) (e : ElinkId) (b : Elink) : (s.withElink e b).rdPhase = s.rdPhase := rfl
@[simp] theorem State.withElink_rdEof (s : State) (e : ElinkId) (b : Elink) : (s.withElink e b).rdEof = s.rdEof := rfl
@[simp] theorem State.withElink_hdr (s : State) (e : ElinkId) (b : Elink) : (s.withElink e b).hdr = s.hdr := rfl
@[simp] theorem State.withElink_payload (s : State) (e : ElinkId) (b : Elink) : (s.withElink e b).payload = s.payload := rfl
@[simp] theorem State.withElink_size (s : State) (e : ElinkId) (b : Elink) : (s.withElink e b).size = s.size := rfl
@[simp] theorem State.withElink_gbtPos (s : State) (e : ElinkId) (b : Elink) : (s.withElink e b).gbtPos = s.gbtPos := rfl
@[simp] theorem State.withElink_eventsRead (s : State) (e : ElinkId) (b : Elink) : (s.withElink e b).eventsRead = s.eventsRead := rfl
@[simp] theorem State.withElink_gbtWords (s : State) (e : ElinkId) (b : Elink) : (s.withElink e b).gbtWords = s.gbtWords := rfl
@[simp] theorem State.withElink_elinks (s : State) (e : ElinkId) (b : Elink) : (s.withElink e b).elinks = s.elinks.set e.val b := rfl
@[simp] theorem State.withElink_scratch (s : State) (e : ElinkId) (b : Elink) : (s.withElink e b).scratch = s.scratch := rfl
@[simp] theorem State.withElink_out (s : State) (e : ElinkId) (b : Elink) : (s.withElink e b).out = s.out := rfl
@[simp] theorem State.withElink_config (s : State) (e : ElinkId) (b : Elink) : (s.withElink e b).config = s.config := rfl
@[simp] theorem State.withElink_pending (s : State) (e : ElinkId) (b : Elink) : (s.withElink e b).pending = s.pending := rfl
@[simp] theorem State.withElink_result (s : State) (e : ElinkId) (b : Elink) : (s.withElink e b).result = s.result := rfl
@[simp] theorem State.withElink_drained (s : State) (e : ElinkId) (b : Elink) : (s.withElink e b).drained = s.drained := rfl

@[simp] theorem State.withScratch_fault (s : State) (k : Nat) (c : Container) : (s.withScratch k c).fault = s.fault := rfl
@[simp] theorem State.withScratch_halted (s : State) (k : Nat) (c : Container) : (s.withScratch k c).halted = s.halted := rfl
@[simp] theorem State.withScratch_mask (s : State) (k : Nat) (c : Container) : (s.withScratch k c).mask = s.mask := rfl
@[simp] theorem State.withScratch_src (s : State) (k : Nat) (c : Container) : (s.withScratch k c).src = s.src := rfl
@[simp] theorem State.withScratch_inPos (s : State) (k : Nat) (c : Container) : (s.withScratch k c).inPos = s.inPos := rfl
@[simp] theorem State.withScratch_rdPhase (s : State) (k : Nat) (c : Container) : (s.withScratch k c).rdPhase = s.rdPhase := rfl
@[simp] theorem State.withScratch_rdEof (s : State) (k : Nat) (c : Container) : (s.withScratch k c).rdEof = s.rdEof := rfl
@[simp] theorem State.withScratch_hdr (s : State) (k : Nat) (c : Container) : (s.withScratch k c).hdr = s.hdr := rfl
@[simp] theorem State.withScratch_payload (s : State) (k : Nat) (c : Container) : (s.withScratch k c).payload = s.payload := rfl
@[simp] theorem State.withScratch_size (s : State) (k : Nat) (c : Container) : (s.withScratch k c).size = s.size := rfl
@[simp] theorem State.withScratch_gbtPos (s : State) (k : Nat) (c : Container) : (s.withScratch k c).gbtPos = s.gbtPos := rfl
@[simp] theorem State.withScratch_eventsRead (s : State) (k : Nat) (c : Container) : (s.withScratch k c).eventsRead = s.eventsRead := rfl
@[simp] theorem State.withScratch_gbtWords (s : State) (k : Nat) (c : Container) : (s.withScratch k c).gbtWords = s.gbtWords := rfl
@[simp] theorem State.withScratch_elinks (s : State) (k : Nat) (c : Container) : (s.withScratch k c).elinks = s.elinks := rfl
@[simp] theorem State.withScratch_scratch (s : State) (k : Nat) (c : Container) : (s.withScratch k c).scratch = s.scratch.set k c := rfl
@[simp] theorem State.withScratch_out (s : State) (k : Nat) (c : Container) : (s.withScratch k c).out = s.out := rfl
@[simp] theorem State.withScratch_config (s : State) (k : Nat) (c : Container) : (s.withScratch k c).config = s.config := rfl
@[simp] theorem State.withScratch_pending (s : State) (k : Nat) (c : Container) : (s.withScratch k c).pending = s.pending := rfl
@[simp] theorem State.withScratch_result (s : State) (k : Nat) (c : Container) : (s.withScratch k c).result = s.result := rfl
@[simp] theorem State.withScratch_drained (s : State) (k : Nat) (c : Container) : (s.withScratch k c).drained = s.drained := rfl
@[simp] theorem State.withScratch_elink (s : State) (k : Nat) (c : Container) (e' : ElinkId) : (s.withScratch k c).elink e' = s.elink e' := rfl

@[simp] theorem State.emit_fault (s : State) (p : Packet) : (s.emit p).fault = s.fault := rfl
@[simp] theorem State.emit_halted (s : State) (p : Packet) : (s.emit p).halted = s.halted := rfl
@[simp] theorem State.emit_mask (s : State) (p : Packet) : (s.emit p).mask = s.mask := rfl
@[simp] theorem State.emit_src (s : State) (p : Packet) : (s.emit p).src = s.src := rfl
@[simp] theorem State.emit_inPos (s : State) (p : Packet) : (s.emit p).inPos = s.inPos := rfl
@[simp] theorem State.emit_rdPhase (s : State) (p : Packet) : (s.emit p).rdPhase = s.rdPhase := rfl
@[simp] theorem State.emit_rdEof (s : State) (p : Packet) : (s.emit p).rdEof = s.rdEof := rfl
@[simp] theorem State.emit_hdr (s : State) (p : Packet) : (s.emit p).hdr = s.hdr := rfl
@[simp] theorem State.emit_payload (s : State) (p : Packet) : (s.emit p).payload = s.payload := rfl
@[simp] theorem State.emit_size (s : State) (p : Packet) : (s.emit p).size = s.size := rfl
@[simp] theorem State.emit_gbtPos (s : State) (p : Packet) : (s.emit p).gbtPos = s.gbtPos := rfl
@[simp] theorem State.emit_eventsRead (s : State) (p : Packet) : (s.emit p).eventsRead = s.eventsRead := rfl
@[simp] theorem State.emit_gbtWords (s : State) (p : Packet) : (s.emit p).gbtWords = s.gbtWords := rfl
@[simp] theorem State.emit_elinks (s : State) (p : Packet) : (s.emit p).elinks = s.elinks := rfl
@[simp] theorem State.emit_scratch (s : State) (p : Packet) : (s.emit p).scratch = s.scratch := rfl
@[simp] theorem State.emit_out (s : State) (p : Packet) : (s.emit p).out = s.out ++ [p] := rfl
@[simp] theorem State.emit_config (s : State) (p : Packet) : (s.emit p).config = s.config := rfl
@[simp] theorem State.emit_pending (s : State) (p : Packet) : (s.emit p).pending = s.pending := rfl
@[simp] theorem State.emit_result (s : State) (p : Packet) : (s.emit p).result = s.result := rfl
@[simp] theorem State.emit_drained (s : State) (p : Packet) : (s.emit p).drained = s.drained := rfl
@[simp] theorem State.emit_elink (s : State) (p : Packet) (e' : ElinkId) : (s.emit p).elink e' = s.elink e' := rfl

@[simp] theorem State.withPending_fault (s : State) (l : List HostAction) : (s.withPending l).fault = s.fault := rfl
@[simp] theorem State.withPending_halted (s : State) (l : List HostAction) : (s.withPending l).halted = s.halted := rfl
@[simp] theorem State.withPending_mask (s : State) (l : List HostAction) : (s.withPending l).mask = s.mask := rfl
@[simp] theorem State.withPending_src (s : State) (l : List HostAction) : (s.withPending l).src = s.src := rfl
@[simp] theorem State.withPending_inPos (s : State) (l : List HostAction) : (s.withPending l).inPos = s.inPos := rfl
@[simp] theorem State.withPending_rdPhase (s : State) (l : List HostAction) : (s.withPending l).rdPhase = s.rdPhase := rfl
@[simp] theorem State.withPending_rdEof (s : State) (l : List HostAction) : (s.withPending l).rdEof = s.rdEof := rfl
@[simp] theorem State.withPending_hdr (s : State) (l : List HostAction) : (s.withPending l).hdr = s.hdr := rfl
@[simp] theorem State.withPending_payload (s : State) (l : List HostAction) : (s.withPending l).payload = s.payload := rfl
@[simp] theorem State.withPending_size (s : State) (l : List HostAction) : (s.withPending l).size = s.size := rfl
@[simp] theorem State.withPending_gbtPos (s : State) (l : List HostAction) : (s.withPending l).gbtPos = s.gbtPos := rfl
@[simp] theorem State.withPending_eventsRead (s : State) (l : List HostAction) : (s.withPending l).eventsRead = s.eventsRead := rfl
@[simp] theorem State.withPending_gbtWords (s : State) (l : List HostAction) : (s.withPending l).gbtWords = s.gbtWords := rfl
@[simp] theorem State.withPending_elinks (s : State) (l : List HostAction) : (s.withPending l).elinks = s.elinks := rfl
@[simp] theorem State.withPending_scratch (s : State) (l : List HostAction) : (s.withPending l).scratch = s.scratch := rfl
@[simp] theorem State.withPending_out (s : State) (l : List HostAction) : (s.withPending l).out = s.out := rfl
@[simp] theorem State.withPending_config (s : State) (l : List HostAction) : (s.withPending l).config = s.config := rfl
@[simp] theorem State.withPending_pending (s : State) (l : List HostAction) : (s.withPending l).pending = l := rfl
@[simp] theorem State.withPending_result (s : State) (l : List HostAction) : (s.withPending l).result = s.result := rfl
@[simp] theorem State.withPending_drained (s : State) (l : List HostAction) : (s.withPending l).drained = s.drained := rfl
@[simp] theorem State.withPending_elink (s : State) (l : List HostAction) (e' : ElinkId) : (s.withPending l).elink e' = s.elink e' := rfl

@[simp] theorem State.acceptEvent_fault (s : State) : s.acceptEvent.fault = s.fault := rfl
@[simp] theorem State.acceptEvent_halted (s : State) : s.acceptEvent.halted = s.halted := rfl
@[simp] theorem State.acceptEvent_mask (s : State) : s.acceptEvent.mask = s.mask := rfl
@[simp] theorem State.acceptEvent_src (s : State) : s.acceptEvent.src = s.src := rfl
@[simp] theorem State.acceptEvent_inPos (s : State) : s.acceptEvent.inPos = s.inPos := rfl
@[simp] theorem State.acceptEvent_rdPhase (s : State) : s.acceptEvent.rdPhase = .loaded := rfl
@[simp] theorem State.acceptEvent_rdEof (s : State) : s.acceptEvent.rdEof = s.rdEof := rfl
@[simp] theorem State.acceptEvent_hdr (s : State) : s.acceptEvent.hdr = s.hdr := rfl
@[simp] theorem State.acceptEvent_payload (s : State) : s.acceptEvent.payload = s.payload := rfl
@[simp] theorem State.acceptEvent_size (s : State) : s.acceptEvent.size = s.size := rfl
@[simp] theorem State.acceptEvent_gbtPos (s : State) : s.acceptEvent.gbtPos = s.gbtPos := rfl
@[simp] theorem State.acceptEvent_eventsRead (s : State) : s.acceptEvent.eventsRead = s.eventsRead + 1 := rfl
@[simp] theorem State.acceptEvent_gbtWords (s : State) : s.acceptEvent.gbtWords = s.gbtWords := rfl
@[simp] theorem State.acceptEvent_elinks (s : State) : s.acceptEvent.elinks = s.elinks := rfl
@[simp] theorem State.acceptEvent_scratch (s : State) : s.acceptEvent.scratch = s.scratch := rfl
@[simp] theorem State.acceptEvent_out (s : State) : s.acceptEvent.out = s.out := rfl
@[simp] theorem State.acceptEvent_config (s : State) : s.acceptEvent.config = s.config := rfl
@[simp] theorem State.acceptEvent_pending (s : State) : s.acceptEvent.pending = s.pending := rfl
@[simp] theorem State.acceptEvent_result (s : State) : s.acceptEvent.result = s.result := rfl
@[simp] theorem State.acceptEvent_drained (s : State) : s.acceptEvent.drained = s.drained := rfl
@[simp] theorem State.acceptEvent_elink (s : State) (e' : ElinkId) : s.acceptEvent.elink e' = s.elink e' := rfl

@[simp] theorem State.withElink_elink_self (s : State) (e : ElinkId) (b : Elink) : (s.withElink e b).elink e = b := by
  simp [State.elink]

theorem State.withElink_elink_of_ne (s : State) {e e' : ElinkId} (b : Elink) (h : e' ≠ e) :
    (s.withElink e b).elink e' = s.elink e' := by
  have : e.val ≠ e'.val := fun hh => h (Fin.ext hh.symm)
  simp [State.elink, this]

@[simp] theorem State.withElink_elink (s : State) (e e' : ElinkId) (b : Elink) :
    (s.withElink e b).elink e' = if e' = e then b else s.elink e' := by
  split
  · next h => subst h; exact State.withElink_elink_self s _ b
  · next h => exact State.withElink_elink_of_ne s b h

/-- Writing back what a bank holds changes nothing. -/
theorem State.withElink_self (s : State) (e : ElinkId) : s.withElink e (s.elink e) = s := by
  cases s
  simp [State.withElink, State.elink]

/-- The last write of a bank wins. -/
@[simp] theorem State.withElink_withElink (s : State) (e : ElinkId) (b b' : Elink) :
    (s.withElink e b).withElink e b' = s.withElink e b' := by
  simp [State.withElink]

@[simp] theorem Elink.rearm_bits (b : Elink) (cp : Nat) : (b.rearm cp).bits = b.bits.clear := rfl
@[simp] theorem Elink.rearm_checkpoint (b : Elink) (cp : Nat) : (b.rearm cp).checkpoint = cp := rfl
@[simp] theorem Elink.rearm_indata (b : Elink) (cp : Nat) : (b.rearm cp).indata = b.indata := rfl
@[simp] theorem Elink.rearm_nsync (b : Elink) (cp : Nat) : (b.rearm cp).nsync = b.nsync := rfl
@[simp] theorem Elink.rearm_sdh (b : Elink) (cp : Nat) : (b.rearm cp).sdh = b.sdh := rfl
@[simp] theorem Elink.withSdh_bits (b : Elink) (h : Sdh) : (b.withSdh h).bits = b.bits := rfl
@[simp] theorem Elink.withSdh_checkpoint (b : Elink) (h : Sdh) : (b.withSdh h).checkpoint = b.checkpoint := rfl
@[simp] theorem Elink.withSdh_indata (b : Elink) (h : Sdh) : (b.withSdh h).indata = b.indata := rfl
@[simp] theorem Elink.withSdh_nsync (b : Elink) (h : Sdh) : (b.withSdh h).nsync = b.nsync := rfl
@[simp] theorem Elink.withSdh_sdh (b : Elink) (h : Sdh) : (b.withSdh h).sdh = h := rfl
@[simp] theorem Container.clear_len (c : Container) : c.clear.len = 0 := rfl
@[simp] theorem Container.clear_cap (c : Container) : c.clear.cap = c.cap := rfl
@[simp] theorem Container.clear_ones (c : Container) : c.clear.ones = [] := rfl

end Sys2Proof.Machine
end

