-- ==== Sys2Proof/Laws/Container.lean ====
section
/-! SUPPORT. What the bit-container operations do, bit by bit, and that each keeps the canonical form (10_state.md R40,
40_bit_container.md R85). -/

namespace Sys2Proof.Machine

/-! ### Bits and values -/

theorem Container.bit_iff_mem (c : Container) (k : Nat) : c.bit k = true ↔ k ∈ c.ones := by
  simp [Container.bit]

theorem Container.bit_eq_decide (c : Container) (k : Nat) : c.bit k = decide (k ∈ c.ones) := by
  rw [Bool.eq_iff_iff]; simp [Container.bit]

/-- Zero beyond length (R40). -/
theorem Container.WF.bit_of_len_le {c : Container} (h : c.WF) {k : Nat} (hk : c.len ≤ k) : c.bit k = false := by
  rw [Container.bit_eq_decide, decide_eq_false_iff_not]
  intro hm
  exact absurd (h.2.1 k hm) (by omega)

/-- The term of bit `n` of a value. -/
theorem bitsValue_term (v : Bool) (n : Nat) : (if v then 2 ^ n else 0) = v.toNat * 2 ^ n := by cases v <;> simp

theorem bitsValue_succ (f : Nat → Bool) (n : Nat) : bitsValue f (n + 1) = bitsValue f n + (f n).toNat * 2 ^ n := by
  rw [bitsValue, bitsValue_term]

theorem bitsValue_lt (f : Nat → Bool) (n : Nat) : bitsValue f n < 2 ^ n := by
  induction n with
  | zero => simp [bitsValue]
  | succ n ih =>
    have : (f n).toNat ≤ 1 := Bool.toNat_le (f n)
    rw [bitsValue_succ, Nat.pow_succ]
    nlinarith [Nat.two_pow_pos n]

/-- Bit `k` of `bitsValue f n` is `f k`, for `k < n`. -/
theorem testBit_bitsValue (f : Nat → Bool) (n k : Nat) : (bitsValue f n).testBit k = (decide (k < n) && f k) := by
  induction n with
  | zero => simp [bitsValue]
  | succ n ih =>
    have hlt := bitsValue_lt f n
    rw [bitsValue_succ, Nat.add_comm, Nat.mul_comm, Nat.testBit_two_pow_mul_add _ hlt]
    by_cases h : k < n
    · simp [h, ih, Nat.lt_succ_of_lt h]
    · by_cases h2 : k = n
      · subst h2; cases f k <;> simp
      · have h3 : ¬ k < n + 1 := by omega
        have h4 : k - n ≠ 0 := by omega
        simp only [h, h3, decide_false, Bool.false_and, if_false]
        cases f n
        · simp
        · exact Nat.testBit_lt_two_pow (Nat.one_lt_two_pow h4)

/-- Two bit functions that agree below `n` have the same value. -/
theorem bitsValue_congr {f g : Nat → Bool} {n : Nat} (h : ∀ k < n, f k = g k) : bitsValue f n = bitsValue g n := by
  induction n with
  | zero => rfl
  | succ n ih => rw [bitsValue_succ, bitsValue_succ, ih fun k hk => h k (by omega), h n (by omega)]

theorem Container.testBit_slice (c : Container) (a n k : Nat) :
    (c.slice a n).testBit k = (decide (k < n) && c.bit (a + k)) := testBit_bitsValue _ n k

/-- Bit `k` of a word read from a container (40_bit_container.md R92). -/
theorem Container.getLsbD_slice (c : Container) (w a n k : Nat) (hn : n ≤ w) :
    (BitVec.ofNat w (c.slice a n)).getLsbD k = (decide (k < n) && c.bit (a + k)) := by
  rw [BitVec.getLsbD_ofNat, Container.testBit_slice]
  by_cases h : k < n
  · simp [h, lt_of_lt_of_le h hn]
  · simp [h]

theorem Container.getLsbD_last50 (c : Container) (k : Nat) :
    c.last50.getLsbD k = (decide (k < 50) && c.bit (c.len - 50 + k)) := c.getLsbD_slice 50 _ 50 k le_rfl

/-! ### Growth -/

theorem doubledCapacity_spec (fuel cap need : Nat) :
    ∃ j, doubledCapacity fuel cap need = cap * 2 ^ j ∧ (∀ i < j, cap * 2 ^ i < need) ∧ j ≤ fuel ∧
      (need ≤ doubledCapacity fuel cap need ∨ j = fuel) := by
  induction fuel generalizing cap with
  | zero => exact ⟨0, by simp [doubledCapacity], by simp, le_rfl, .inr rfl⟩
  | succ fuel ih =>
    by_cases h : cap < need
    · obtain ⟨j, e, m, l, d⟩ := ih (2 * cap)
      refine ⟨j + 1, ?_, ?_, by omega, ?_⟩
      · rw [doubledCapacity, if_pos h, e]; ring
      · intro i hi
        rcases i with _ | i
        · simpa using h
        · have := m i (by omega)
          calc cap * 2 ^ (i + 1) = 2 * cap * 2 ^ i := by ring
            _ < need := this
      · rw [doubledCapacity, if_pos h]; omega
    · exact ⟨0, by simp [doubledCapacity, h], by simp, by omega, .inl (by simp [doubledCapacity, h]; omega)⟩

/-- The fuel `log2 need + 1` is enough from a capacity of at least 1. -/
theorem le_doubledCapacity {cap need : Nat} (h : 1 ≤ cap) : need ≤ doubledCapacity (need.log2 + 1) cap need := by
  obtain ⟨j, e, -, -, d⟩ := doubledCapacity_spec (need.log2 + 1) cap need
  rcases d with d | d
  · exact d
  · rw [e, d]
    have : need < 2 ^ (need.log2 + 1) := Nat.lt_log2_self
    nlinarith

/-- What `grow` gives, whenever it gives something: the same bits and length, room for `need`, the old capacity doubled
some number of times (40_bit_container.md R84). -/
theorem Container.grow_eq_some {max need : Nat} {c c' : Container} (h : c.grow max need = some c') :
    c'.len = c.len ∧ c'.ones = c.ones ∧ need ≤ c'.cap ∧ c.cap ≤ c'.cap ∧ (c'.cap = c.cap ∨ c'.cap ≤ max) := by
  unfold Container.grow at h
  split at h
  · obtain rfl := Option.some.inj h
    exact ⟨rfl, rfl, by assumption, le_rfl, .inl rfl⟩
  · next hn =>
    dsimp only at h
    split at h
    · exact absurd h (by simp)
    · next hm =>
      obtain rfl := Option.some.inj h
      exact ⟨rfl, rfl, by simp only; omega, by simp only; omega, .inr (by simp only; omega)⟩

theorem Container.grow_of_le {max need : Nat} {c : Container} (h : need ≤ c.cap) : c.grow max need = some c := by
  simp [Container.grow, h]

theorem Container.grow_bit {max need : Nat} {c c' : Container} (h : c.grow max need = some c') (k : Nat) :
    c'.bit k = c.bit k := by
  simp only [Container.bit, (Container.grow_eq_some h).2.1]

theorem Container.grow_WF {max need : Nat} {c c' : Container} (h : c.grow max need = some c') (w : c.WF) : c'.WF := by
  obtain ⟨hl, ho, -, hc, -⟩ := Container.grow_eq_some h
  exact ⟨ho ▸ w.1, by rw [ho, hl]; exact w.2.1, by rw [hl]; exact le_trans w.2.2 hc⟩

/-! ### Writing -/

theorem mem_onesFrom {a n : Nat} {f : Nat → Bool} {k : Nat} :
    k ∈ onesFrom a n f ↔ a ≤ k ∧ k < a + n ∧ f (k - a) = true := by
  simp only [onesFrom, List.mem_map, List.mem_filter, List.mem_range]
  constructor
  · rintro ⟨j, ⟨hj, hf⟩, rfl⟩
    exact ⟨by omega, by omega, by simpa using hf⟩
  · rintro ⟨h1, h2, h3⟩
    exact ⟨k - a, ⟨by omega, h3⟩, by omega⟩

theorem onesFrom_pairwise (a n : Nat) (f : Nat → Bool) : (onesFrom a n f).Pairwise (· < ·) := by
  unfold onesFrom
  rw [List.pairwise_map]
  exact (List.pairwise_lt_range.filter f).imp fun h => by omega

@[simp] theorem Container.write_len (c : Container) (a n : Nat) (f : Nat → Bool) :
    (c.write a n f).len = max c.len (a + n) := rfl
@[simp] theorem Container.write_cap (c : Container) (a n : Nat) (f : Nat → Bool) : (c.write a n f).cap = c.cap := rfl
@[simp] theorem Container.set_len (c : Container) (i : Nat) (v : Bool) : (c.set i v).len = max c.len (i + 1) := rfl
@[simp] theorem Container.set_cap (c : Container) (i : Nat) (v : Bool) : (c.set i v).cap = c.cap := rfl
@[simp] theorem Container.fill_len (c : Container) (n : Nat) (f : Nat → Bool) : (c.fill n f).len = n := rfl
@[simp] theorem Container.fill_cap (c : Container) (n : Nat) (f : Nat → Bool) : (c.fill n f).cap = c.cap := rfl
@[simp] theorem Container.prune_len (c : Container) (n : Nat) : (c.prune n).len = c.len - n := rfl
@[simp] theorem Container.prune_cap (c : Container) (n : Nat) : (c.prune n).cap = c.cap := rfl
@[simp] theorem Container.takeLast_len (t c : Container) (n : Nat) : (t.takeLast c n).len = n := rfl
@[simp] theorem Container.takeLast_cap (t c : Container) (n : Nat) : (t.takeLast c n).cap = t.cap := rfl

/-- The bits after a range write: the range from `f`, the others as before (40_bit_container.md R91). -/
theorem Container.write_bit (c : Container) (a n : Nat) (f : Nat → Bool) (k : Nat) :
    (c.write a n f).bit k = if a ≤ k ∧ k < a + n then f (k - a) else c.bit k := by
  rw [Bool.eq_iff_iff]
  simp only [Container.bit_iff_mem, Container.write, List.mem_append, List.mem_filter, mem_onesFrom, decide_eq_true_eq]
  split
  · next h => constructor
              · rintro ((h1 | h1) | h1)
                · omega
                · exact h1.2.2
                · omega
              · intro hf
                exact .inl (.inr ⟨h.1, h.2, hf⟩)
  · next h =>
    rw [Container.bit_iff_mem]
    constructor
    · rintro ((h1 | h1) | h1)
      · exact h1.1
      · exact absurd ⟨h1.1, h1.2.1⟩ h
      · exact h1.1
    · intro hm
      by_cases hk : k < a
      · exact .inl (.inl ⟨hm, hk⟩)
      · exact .inr ⟨hm, by omega⟩

/-- The bits after `set(i, v)` (40_bit_container.md R88). -/
theorem Container.set_bit (c : Container) (i : Nat) (v : Bool) (k : Nat) :
    (c.set i v).bit k = if k = i then v else c.bit k := by
  rw [Container.set, Container.write_bit]
  by_cases h : k = i
  · rw [if_pos (by omega), if_pos h]
  · rw [if_neg (by omega), if_neg h]

/-- The bits after the content is replaced (40_bit_container.md R93, R94, R95). -/
theorem Container.fill_bit (c : Container) (n : Nat) (f : Nat → Bool) (k : Nat) :
    (c.fill n f).bit k = (decide (k < n) && f k) := by
  rw [Bool.eq_iff_iff, Container.bit_iff_mem, Container.fill, mem_onesFrom]
  simp

theorem Container.mem_onesAfter (c : Container) (n k : Nat) : k ∈ c.onesAfter n ↔ n + k ∈ c.ones := by
  simp only [Container.onesAfter, List.mem_map, List.mem_filter, decide_eq_true_eq]
  constructor
  · rintro ⟨j, ⟨hj, hn⟩, rfl⟩
    rwa [Nat.add_sub_cancel' hn]
  · intro h
    exact ⟨n + k, ⟨h, by omega⟩, by omega⟩

/-- The bits after the first `n` are dropped (40_bit_container.md R98). -/
theorem Container.prune_bit (c : Container) (n k : Nat) : (c.prune n).bit k = c.bit (n + k) := by
  rw [Bool.eq_iff_iff, Container.bit_iff_mem, Container.bit_iff_mem]
  exact c.mem_onesAfter n k

/-- The bits of the copy of the last `n` (40_bit_container.md R97). -/
theorem Container.takeLast_bit (t c : Container) (n k : Nat) : (t.takeLast c n).bit k = c.bit (c.len - n + k) := by
  rw [Bool.eq_iff_iff, Container.bit_iff_mem, Container.bit_iff_mem]
  exact c.mem_onesAfter (c.len - n) k

@[simp] theorem Container.clear_bit (c : Container) (k : Nat) : c.clear.bit k = false := by
  simp [Container.bit]

@[simp] theorem Container.empty_bit (cap k : Nat) : (Container.empty cap).bit k = false := by
  simp [Container.bit, Container.empty]

/-! ### The canonical form is kept -/

theorem Container.empty_WF (cap : Nat) : (Container.empty cap).WF := by
  simp [Container.WF, Container.empty]

theorem Container.clear_WF (c : Container) : c.clear.WF := by simp [Container.WF]

theorem Container.write_WF {c : Container} (w : c.WF) {a n : Nat} (f : Nat → Bool) (h : a + n ≤ c.cap) :
    (c.write a n f).WF := by
  refine ⟨?_, ?_, ?_⟩
  · simp only [Container.write, List.append_assoc, List.pairwise_append, List.mem_append, List.mem_filter,
      mem_onesFrom, decide_eq_true_eq]
    refine ⟨w.1.filter _, ⟨onesFrom_pairwise _ _ _, w.1.filter _, ?_⟩, ?_⟩
    · rintro x ⟨_, hx, _⟩ y ⟨_, hy⟩; omega
    · rintro x ⟨_, hx⟩ y (⟨hy, _⟩ | ⟨_, hy⟩) <;> omega
  · intro k hk
    simp only [Container.write, List.mem_append, List.mem_filter, mem_onesFrom, decide_eq_true_eq] at hk ⊢
    rcases hk with (⟨hm, _⟩ | ⟨_, hk, _⟩) | ⟨hm, _⟩
    · have := w.2.1 k hm; omega
    · omega
    · have := w.2.1 k hm; omega
  · have := w.2.2
    simp only [Container.write_len, Container.write_cap]; omega

theorem Container.set_WF {c : Container} (w : c.WF) {i : Nat} (v : Bool) (h : i + 1 ≤ c.cap) : (c.set i v).WF :=
  Container.write_WF w _ h

theorem Container.fill_WF (c : Container) {n : Nat} (f : Nat → Bool) (h : n ≤ c.cap) : (c.fill n f).WF := by
  refine ⟨onesFrom_pairwise _ _ _, ?_, h⟩
  intro k hk
  have := mem_onesFrom.1 hk
  simp only [Container.fill_len]; omega

theorem Container.onesAfter_pairwise {c : Container} (w : c.ones.Pairwise (· < ·)) (n : Nat) :
    (c.onesAfter n).Pairwise (· < ·) := by
  unfold Container.onesAfter
  rw [List.pairwise_map]
  refine List.Pairwise.imp_of_mem ?_ (w.filter (n ≤ ·))
  intro x y hx hy h
  have h1 := (List.mem_filter.1 hx).2
  have h2 := (List.mem_filter.1 hy).2
  simp only [decide_eq_true_eq] at h1 h2
  omega

theorem Container.prune_WF {c : Container} (w : c.WF) (n : Nat) : (c.prune n).WF := by
  refine ⟨c.onesAfter_pairwise w.1 n, ?_, ?_⟩
  · intro k hk
    have := w.2.1 _ ((c.mem_onesAfter n k).1 hk)
    simp only [Container.prune_len]; omega
  · have := w.2.2
    simp only [Container.prune_len, Container.prune_cap]; omega

theorem Container.takeLast_WF (t : Container) {c : Container} (w : c.WF) {n : Nat} (hn : n ≤ c.len) (h : n ≤ t.cap) :
    (t.takeLast c n).WF := by
  refine ⟨c.onesAfter_pairwise w.1 _, ?_, h⟩
  intro k hk
  have := w.2.1 _ ((c.mem_onesAfter _ k).1 hk)
  simp only [Container.takeLast_len]; omega

/-- Two containers in canonical form with the same length and the same bits hold the same list (R40). -/
theorem Container.WF.ones_eq {c d : Container} (hc : c.WF) (hd : d.WF) (h : ∀ k, c.bit k = d.bit k) : c.ones = d.ones := by
  refine List.Perm.eq_of_pairwise (le := (· < ·)) (fun a b _ _ h1 h2 => absurd h1 (by omega)) hc.1 hd.1 ?_
  refine (List.perm_ext_iff_of_nodup (hc.1.imp fun h => by omega) (hd.1.imp fun h => by omega)).2 fun k => ?_
  rw [← Container.bit_iff_mem, ← Container.bit_iff_mem, h k]

/-! ### Read-outs -/

/-- The search answers the first index at which the pattern stands (40_bit_container.md R96). -/
theorem Container.matchesAt_iff (c q : Container) (i : Nat) :
    c.matchesAt q i = true ↔ ∀ k < q.len, c.bit (i + k) = q.bit k := by
  simp [Container.matchesAt]

theorem Container.search_eq_some (c q : Container) (i : Nat) :
    c.search q = some i ↔ i + q.len ≤ c.len ∧ c.matchesAt q i = true ∧ ∀ j < i, c.matchesAt q j = false := by
  rw [Container.search, List.find?_range_eq_some]
  simp only [List.mem_range, Bool.not_eq_true']
  constructor
  · rintro ⟨h1, h2, h3⟩; exact ⟨by omega, h1, h3⟩
  · rintro ⟨h1, h2, h3⟩; exact ⟨h2, by omega, h3⟩

theorem Container.search_eq_none (c q : Container) :
    c.search q = none ↔ ∀ i, i + q.len ≤ c.len → c.matchesAt q i = false := by
  rw [Container.search, List.find?_range_eq_none]
  simp only [Bool.not_eq_true']
  exact ⟨fun h i hi => h i (by omega), fun h i hi => h i (by omega)⟩

theorem Container.same_iff (c q : Container) : c.same q = true ↔ c.len = q.len ∧ ∀ k < c.len, c.bit k = q.bit k := by
  simp only [Container.same, Bool.and_eq_true, beq_iff_eq, Container.matchesAt_iff, Nat.zero_add]
  constructor
  · rintro ⟨h, h2⟩; exact ⟨h, fun k hk => h2 k (by omega)⟩
  · rintro ⟨h, h2⟩; exact ⟨h, fun k hk => h2 k (by omega)⟩

/-- In canonical form the count is the number of listed indices. -/
theorem Container.WF.count_eq {c : Container} (w : c.WF) : c.count = c.ones.length := by
  have hf : (List.range c.len).filter c.bit = c.ones := by
    have hfill : (c.fill c.len c.bit).WF := c.fill_WF _ w.2.2
    have := Container.WF.ones_eq hfill w fun k => by
      rw [Container.fill_bit]
      by_cases h : k < c.len
      · simp [h]
      · simp [h, w.bit_of_len_le (by omega : c.len ≤ k)]
    simpa [Container.fill, onesFrom] using this
  rw [Container.count, List.countP_eq_length_filter, hf]

end Sys2Proof.Machine
end

