-- ==== Sys2Proof/Laws/Header.lean ====
section
/-! SUPPORT. The bits of a SAMPA Data Header put together from its fields (30_encoding.md R70). -/

namespace Sys2Proof

/-- Which field each bit of a header belongs to (30_encoding.md R70). -/
theorem Sdh.getLsbD_pack (p : BitVec 3) (f : SdhFields) (k : Nat) :
    (Sdh.pack p f).getLsbD k =
      if k < 6 then f.hamming.getLsbD k
      else if k < 7 then f.parity.getLsbD (k - 6)
      else if k < 10 then p.getLsbD (k - 7)
      else if k < 20 then f.numWords.getLsbD (k - 10)
      else if k < 24 then f.hadd.getLsbD (k - 20)
      else if k < 29 then f.chadd.getLsbD (k - 24)
      else if k < 49 then f.bxcount.getLsbD (k - 29)
      else f.dp.getLsbD (k - 49) := by
  simp only [Sdh.pack, BitVec.getLsbD_append, Nat.sub_sub]
  repeat' split
  all_goals first | rfl | omega

/-- PKT is the field that selects the row. -/
theorem Sdh.pkt_pack (p : BitVec 3) (f : SdhFields) : Sdh.pkt (Sdh.pack p f) = p := by
  refine BitVec.eq_of_getLsbD_eq fun k hk => ?_
  rw [Sdh.pkt, BitVec.getLsbD_extractLsb', Sdh.getLsbD_pack, if_neg (by omega), if_neg (by omega), if_pos (by omega)]
  simp [hk]

/-- NumWords of a header put together from its fields. -/
theorem Sdh.numWords_pack (p : BitVec 3) (f : SdhFields) : Sdh.numWords (Sdh.pack p f) = f.numWords := by
  refine BitVec.eq_of_getLsbD_eq fun k hk => ?_
  rw [Sdh.numWords, BitVec.getLsbD_extractLsb', Sdh.getLsbD_pack, if_neg (by omega), if_neg (by omega), if_neg (by omega),
    if_pos (by omega)]
  simp [hk]

/-- The bits under the PKT mask of the table. -/
theorem Sdh.pack_and (p : BitVec 3) (f : SdhFields) : Sdh.pack p f &&& 0x380#50 = (p.setWidth 50) <<< 7 := by
  refine BitVec.eq_of_getLsbD_eq fun k hk => ?_
  have h0 : (0x380#50).getLsbD k = decide (7 ≤ k ∧ k < 10) := by
    revert hk; revert k; decide
  rw [BitVec.getLsbD_and, h0, Sdh.getLsbD_pack, BitVec.getLsbD_shiftLeft, BitVec.getLsbD_setWidth]
  by_cases h : 7 ≤ k ∧ k < 10
  · have h1 : ¬ k < 6 := by omega
    have h2 : ¬ k < 7 := by omega
    have h3 : k - 7 < 50 := by omega
    simp [h1, h2, h.1, h.2, h3, hk]
  · by_cases h2 : k < 7
    · have : ¬ 7 ≤ k := by omega
      simp [h2, this]
    · have h3 : ¬ k < 10 := by omega
      have : p.getLsbD (k - 7) = false := BitVec.getLsbD_of_ge _ _ (by omega)
      simp [this, h3]

end Sys2Proof
end

