-- ==== Sys2Proof/Laws/Decode.lean ====
section
/-! SUPPORT. The decoder, one lemma per listed opcode; each operand field written and read back; what a parse that succeeds says;
and a header put together from its fields and taken apart. -/

namespace Sys2Proof

/-! ### The opcodes (30_encoding.md R79) -/

theorem decodeCommand_10 (l : List Operand) : decodeCommand ⟨0x10, l⟩ = parse2 Operand.asHandle Operand.asInt Instr.bcGet l := rfl
theorem decodeCommand_11 (l : List Operand) : decodeCommand ⟨0x11, l⟩ = parse3 Operand.asHandle Operand.asInt Operand.asBit Instr.bcSet l := rfl
theorem decodeCommand_12 (l : List Operand) : decodeCommand ⟨0x12, l⟩ = parse2 Operand.asHandle Operand.asBit Instr.bcAppend l := rfl
theorem decodeCommand_13 (l : List Operand) : decodeCommand ⟨0x13, l⟩ = parse1 Operand.asHandle Instr.bcClear l := rfl
theorem decodeCommand_14 (l : List Operand) : decodeCommand ⟨0x14, l⟩ = parse4 Operand.asHandle Operand.asInt Operand.asInt (Operand.asValue 8) Instr.bcSetr8 l := rfl
theorem decodeCommand_15 (l : List Operand) : decodeCommand ⟨0x15, l⟩ = parse4 Operand.asHandle Operand.asInt Operand.asInt (Operand.asValue 16) Instr.bcSetr16 l := rfl
theorem decodeCommand_16 (l : List Operand) : decodeCommand ⟨0x16, l⟩ = parse4 Operand.asHandle Operand.asInt Operand.asInt (Operand.asValue 32) Instr.bcSetr32 l := rfl
theorem decodeCommand_17 (l : List Operand) : decodeCommand ⟨0x17, l⟩ = parse4 Operand.asHandle Operand.asInt Operand.asInt (Operand.asValue 64) Instr.bcSetr64 l := rfl
theorem decodeCommand_18 (l : List Operand) : decodeCommand ⟨0x18, l⟩ = parse3 Operand.asHandle Operand.asInt Operand.asInt Instr.bcUint8 l := rfl
theorem decodeCommand_19 (l : List Operand) : decodeCommand ⟨0x19, l⟩ = parse3 Operand.asHandle Operand.asInt Operand.asInt Instr.bcUint16 l := rfl
theorem decodeCommand_1A (l : List Operand) : decodeCommand ⟨0x1A, l⟩ = parse3 Operand.asHandle Operand.asInt Operand.asInt Instr.bcUint32 l := rfl
theorem decodeCommand_1B (l : List Operand) : decodeCommand ⟨0x1B, l⟩ = parse3 Operand.asHandle Operand.asInt Operand.asInt Instr.bcUint64 l := rfl
theorem decodeCommand_1C (l : List Operand) : decodeCommand ⟨0x1C, l⟩ = parse2 Operand.asHandle Operand.asBytes Instr.bcSetbytes l := rfl
theorem decodeCommand_1D (l : List Operand) : decodeCommand ⟨0x1D, l⟩ = parse2 Operand.asHandle Operand.asHandle Instr.bcSearch l := rfl
theorem decodeCommand_1E (l : List Operand) : decodeCommand ⟨0x1E, l⟩ = parse3 Operand.asHandle Operand.asHandle Operand.asInt Instr.bcLast l := rfl
theorem decodeCommand_1F (l : List Operand) : decodeCommand ⟨0x1F, l⟩ = parse2 Operand.asHandle Operand.asInt Instr.bcPrune l := rfl
theorem decodeCommand_20 (l : List Operand) : decodeCommand ⟨0x20, l⟩ = parse2 Operand.asHandle Operand.asHandle Instr.bcEqual l := rfl
theorem decodeCommand_21 (l : List Operand) : decodeCommand ⟨0x21, l⟩ = parse1 Operand.asHandle Instr.bcCount l := rfl
theorem decodeCommand_22 (l : List Operand) : decodeCommand ⟨0x22, l⟩ = parse1 Operand.asHandle Instr.bcLen l := rfl
theorem decodeCommand_23 (l : List Operand) : decodeCommand ⟨0x23, l⟩ = parse1 Operand.asHandle Instr.bcStrl l := rfl
theorem decodeCommand_24 (l : List Operand) : decodeCommand ⟨0x24, l⟩ = parse1 Operand.asHandle Instr.bcStrr l := rfl
theorem decodeCommand_25 (l : List Operand) : decodeCommand ⟨0x25, l⟩ = parse2 Operand.asHandle Operand.asStr Instr.bcFromstr l := rfl
theorem decodeCommand_26 (l : List Operand) : decodeCommand ⟨0x26, l⟩ = parse2 Operand.asHandle (Operand.asValue 8) Instr.bcFromu8 l := rfl
theorem decodeCommand_27 (l : List Operand) : decodeCommand ⟨0x27, l⟩ = parse2 Operand.asHandle (Operand.asValue 16) Instr.bcFromu16 l := rfl
theorem decodeCommand_28 (l : List Operand) : decodeCommand ⟨0x28, l⟩ = parse2 Operand.asHandle (Operand.asValue 32) Instr.bcFromu32 l := rfl
theorem decodeCommand_29 (l : List Operand) : decodeCommand ⟨0x29, l⟩ = parse2 Operand.asHandle (Operand.asValue 64) Instr.bcFromu64 l := rfl
theorem decodeCommand_30 (l : List Operand) : decodeCommand ⟨0x30, l⟩ = parse0 Instr.rdNextevent l := rfl
theorem decodeCommand_31 (l : List Operand) : decodeCommand ⟨0x31, l⟩ = parse0 Instr.rdNextgbt l := rfl
theorem decodeCommand_40 (l : List Operand) : decodeCommand ⟨0x40, l⟩ = parse1 Operand.asBytes Instr.dspWord l := rfl
theorem decodeCommand_41 (l : List Operand) : decodeCommand ⟨0x41, l⟩ = parse0 Instr.dspClearall l := rfl
theorem decodeCommand_50 (l : List Operand) : decodeCommand ⟨0x50, l⟩ = parse3 Operand.asElink Operand.asBit Operand.asBit Instr.elAppend l := rfl
theorem decodeCommand_51 (l : List Operand) : decodeCommand ⟨0x51, l⟩ = parse2 Operand.asElink Operand.asBit Instr.elPush l := rfl
theorem decodeCommand_52 (l : List Operand) : decodeCommand ⟨0x52, l⟩ = parse1 Operand.asElink Instr.elForceclear l := rfl
theorem decodeCommand_53 (l : List Operand) : decodeCommand ⟨0x53, l⟩ = parse1 Operand.asElink Instr.elIsempty l := rfl
theorem decodeCommand_54 (l : List Operand) : decodeCommand ⟨0x54, l⟩ = parse1 Operand.asElink Instr.elRead l := rfl
theorem decodeCommand_60 (l : List Operand) : decodeCommand ⟨0x60, l⟩ = parse0 Instr.plStep l := rfl
theorem decodeCommand_61 (l : List Operand) : decodeCommand ⟨0x61, l⟩ = parse1 Operand.asMask Instr.cfgSetmask l := rfl
theorem decodeCommand_62 (l : List Operand) : decodeCommand ⟨0x62, l⟩ = parse0 Instr.cfgGetmask l := rfl
theorem decodeCommand_63 (l : List Operand) : decodeCommand ⟨0x63, l⟩ = parse0 Instr.sysStatus l := rfl
theorem decodeCommand_7F (l : List Operand) : decodeCommand ⟨0x7F, l⟩ = parse1 Operand.asBytes Instr.sysReset l := rfl

/-! ### Operand fields, written and read back -/

theorem Operand.asUint_ofBits {w : Nat} (err : DecodeError) (x : BitVec w) : Operand.asUint w err (.ofBits x) = .ok x := by
  have := x.isLt
  simp [Operand.asUint, Operand.ofBits]
  exact_mod_cast this

theorem Operand.asHandle_ofBits (x : Handle) : Operand.asHandle (.ofBits x) = .ok x := Operand.asUint_ofBits _ x

theorem Operand.asValue_ofBits {w : Nat} (x : BitVec w) : Operand.asValue w (.ofBits x) = .ok x := Operand.asUint_ofBits _ x

theorem Operand.asMask_ofBits (x : BitVec 40) : Operand.asMask (.ofBits x) = .ok x := Operand.asUint_ofBits _ x

theorem Operand.asBit_ofBit (v : Bool) : Operand.asBit (.ofBit v) = .ok v := by cases v <;> rfl

theorem Operand.asElink_ofElink (e : ElinkId) : Operand.asElink (.ofElink e) = .ok e := by
  simp [Operand.asElink, Operand.ofElink]

/-! ### What an operand that is read was -/

theorem Operand.ofBits_of_asUint {w : Nat} {err : DecodeError} {o : Operand} {x : BitVec w} (h : Operand.asUint w err o = .ok x) :
    Operand.ofBits x = o := by
  cases o <;> simp only [Operand.asUint, reduceCtorEq] at h
  split at h
  · next hh =>
    obtain rfl := Except.ok.inj h
    simp only [Operand.ofBits, BitVec.toNat_ofNat]
    congr 1
    rw [Nat.mod_eq_of_lt (by zify; rw [Int.toNat_of_nonneg hh.1]; exact hh.2)]
    omega
  · cases h

theorem Operand.ofBit_of_asBit {o : Operand} {v : Bool} (h : Operand.asBit o = .ok v) : Operand.ofBit v = o := by
  cases o <;> simp only [Operand.asBit, reduceCtorEq] at h
  split at h
  · cases h; subst_vars; rfl
  · split at h
    · cases h; subst_vars; rfl
    · cases h

theorem Operand.ofElink_of_asElink {o : Operand} {e : ElinkId} (h : Operand.asElink o = .ok e) : Operand.ofElink e = o := by
  cases o <;> simp only [Operand.asElink, reduceCtorEq] at h
  split at h
  · obtain rfl := Except.ok.inj h
    simp [Operand.ofElink]; omega
  · cases h

theorem Operand.int_of_asInt {o : Operand} {n : Int} (h : Operand.asInt o = .ok n) : Operand.int n = o := by
  cases o <;> simp only [Operand.asInt, reduceCtorEq, Except.ok.injEq] at h
  rw [h]

theorem Operand.bytes_of_asBytes {o : Operand} {bs : List Byte} (h : Operand.asBytes o = .ok bs) : Operand.bytes bs = o := by
  cases o <;> simp only [Operand.asBytes, reduceCtorEq, Except.ok.injEq] at h
  rw [h]

theorem Operand.str_of_asStr {o : Operand} {cs : List Char} (h : Operand.asStr o = .ok cs) : Operand.str cs = o := by
  cases o <;> simp only [Operand.asStr, reduceCtorEq, Except.ok.injEq] at h
  rw [h]

/-! ### Parses that succeed -/

theorem parse1_eq {α : Type} {p : Operand → Except DecodeError α} {k : α → Instr} {a : Operand} {x : α} (ha : p a = .ok x) :
    parse1 p k [a] = .ok (k x) := by
  show (p a).map k = _
  rw [ha]; rfl

theorem parse2_eq {α β : Type} {p : Operand → Except DecodeError α} {q : Operand → Except DecodeError β} {k : α → β → Instr}
    {a b : Operand} {x : α} {y : β} (ha : p a = .ok x) (hb : q b = .ok y) : parse2 p q k [a, b] = .ok (k x y) := by
  show ((p a).bind fun x => (q b).map (k x)) = _
  rw [ha, hb]; rfl

theorem parse3_eq {α β γ : Type} {p : Operand → Except DecodeError α} {q : Operand → Except DecodeError β}
    {r : Operand → Except DecodeError γ} {k : α → β → γ → Instr} {a b c : Operand} {x : α} {y : β} {z : γ}
    (ha : p a = .ok x) (hb : q b = .ok y) (hc : r c = .ok z) : parse3 p q r k [a, b, c] = .ok (k x y z) := by
  show ((p a).bind fun x => (q b).bind fun y => (r c).map (k x y)) = _
  rw [ha, hb, hc]; rfl

theorem parse4_eq {α β γ δ : Type} {p : Operand → Except DecodeError α} {q : Operand → Except DecodeError β}
    {r : Operand → Except DecodeError γ} {t : Operand → Except DecodeError δ} {k : α → β → γ → δ → Instr}
    {a b c d : Operand} {x : α} {y : β} {z : γ} {w : δ} (ha : p a = .ok x) (hb : q b = .ok y) (hc : r c = .ok z)
    (hd : t d = .ok w) : parse4 p q r t k [a, b, c, d] = .ok (k x y z w) := by
  show ((p a).bind fun x => (q b).bind fun y => (r c).bind fun z => (t d).map (k x y z)) = _
  rw [ha, hb, hc, hd]; rfl

/-! ### What a parse that succeeds says -/

theorem parse0_ok {k i : Instr} {l : List Operand} (h : parse0 k l = .ok i) : l = [] ∧ i = k := by
  cases l <;> simp [parse0] at h ⊢; exact h.symm

theorem parse1_ok {α : Type} {p : Operand → Except DecodeError α} {k : α → Instr} {l : List Operand} {i : Instr}
    (h : parse1 p k l = .ok i) : ∃ a x, l = [a] ∧ p a = .ok x ∧ i = k x := by
  rcases l with _ | ⟨a, _ | _⟩ <;> simp [parse1] at h
  cases hp : p a <;> simp [hp, Except.map] at h
  exact ⟨a, _, rfl, hp, h.symm⟩

theorem parse2_ok {α β : Type} {p : Operand → Except DecodeError α} {q : Operand → Except DecodeError β} {k : α → β → Instr}
    {l : List Operand} {i : Instr} (h : parse2 p q k l = .ok i) :
    ∃ a b x y, l = [a, b] ∧ p a = .ok x ∧ q b = .ok y ∧ i = k x y := by
  rcases l with _ | ⟨a, _ | ⟨b, _ | _⟩⟩ <;> simp [parse2] at h
  cases hp : p a <;> simp [hp, Except.map, Except.bind] at h
  cases hq : q b <;> simp [hq] at h
  exact ⟨a, b, _, _, rfl, hp, hq, h.symm⟩

theorem parse3_ok {α β γ : Type} {p : Operand → Except DecodeError α} {q : Operand → Except DecodeError β}
    {r : Operand → Except DecodeError γ} {k : α → β → γ → Instr} {l : List Operand} {i : Instr}
    (h : parse3 p q r k l = .ok i) : ∃ a b c x y z, l = [a, b, c] ∧ p a = .ok x ∧ q b = .ok y ∧ r c = .ok z ∧ i = k x y z := by
  rcases l with _ | ⟨a, _ | ⟨b, _ | ⟨c, _ | _⟩⟩⟩ <;> simp [parse3] at h
  cases hp : p a <;> simp [hp, Except.map, Except.bind] at h
  cases hq : q b <;> simp [hq] at h
  cases hr : r c <;> simp [hr] at h
  exact ⟨a, b, c, _, _, _, rfl, hp, hq, hr, h.symm⟩

theorem parse4_ok {α β γ δ : Type} {p : Operand → Except DecodeError α} {q : Operand → Except DecodeError β}
    {r : Operand → Except DecodeError γ} {t : Operand → Except DecodeError δ} {k : α → β → γ → δ → Instr} {l : List Operand}
    {i : Instr} (h : parse4 p q r t k l = .ok i) :
    ∃ a b c d x y z w, l = [a, b, c, d] ∧ p a = .ok x ∧ q b = .ok y ∧ r c = .ok z ∧ t d = .ok w ∧ i = k x y z w := by
  rcases l with _ | ⟨a, _ | ⟨b, _ | ⟨c, _ | ⟨d, _ | _⟩⟩⟩⟩ <;> simp [parse4] at h
  cases hp : p a <;> simp [hp, Except.map, Except.bind] at h
  cases hq : q b <;> simp [hq] at h
  cases hr : r c <;> simp [hr] at h
  cases ht : t d <;> simp [ht] at h
  exact ⟨a, b, c, d, _, _, _, _, rfl, hp, hq, hr, ht, h.symm⟩

/-! ### Headers -/

theorem Sdh.fields_pack (p : BitVec 3) (f : SdhFields) : Sdh.fields (Sdh.pack p f) = f := by
  obtain ⟨a, b, c, d, e, g, i⟩ := f
  simp only [Sdh.fields, SdhFields.mk.injEq]
  refine ⟨?_, ?_, ?_, ?_, ?_, ?_, ?_⟩ <;>
  · refine BitVec.eq_of_getLsbD_eq fun k hk => ?_
    simp only [Sdh.hamming, Sdh.parity, Sdh.numWords, Sdh.hadd, Sdh.chadd, Sdh.bxcount, Sdh.dp, BitVec.getLsbD_extractLsb',
      Sdh.getLsbD_pack]
    simp only [hk, decide_true, Bool.true_and]
    repeat' split
    all_goals first | omega | (congr 1; omega)

theorem Sdh.pack_fields (h : Sdh) : Sdh.pack (Sdh.pkt h) (Sdh.fields h) = h := by
  refine BitVec.eq_of_getLsbD_eq fun k hk => ?_
  rw [Sdh.getLsbD_pack]
  simp only [Sdh.fields, Sdh.pkt, Sdh.hamming, Sdh.parity, Sdh.numWords, Sdh.hadd, Sdh.chadd, Sdh.bxcount, Sdh.dp,
    BitVec.getLsbD_extractLsb']
  repeat' split
  all_goals
    rw [Bool.and_eq_right_iff_imp.2 (by intro _; simp; omega)]
    congr 1
    omega

/-- The header of a PKT value and the fields of a header with that PKT is that header. -/
theorem Sdh.pack_of_pkt {p : BitVec 3} {h : Sdh} (hp : Sdh.pkt h = p) : Sdh.pack p (Sdh.fields h) = h := by
  subst hp; exact h.pack_fields

theorem Sdh.toNat_pkt (h : Sdh) : (Sdh.pkt h).toNat = h.toNat / 2 ^ 7 % 8 := by
  simp [Sdh.pkt, BitVec.extractLsb'_toNat, Nat.shiftRight_eq_div_pow]

end Sys2Proof
end

