-- ==== Sys2Proof/Laws/Ops.lean ====
section
/-! SUPPORT. What the shared operations can do: how a command ends, the byte source, the payload buffer (its canonical form and
read after write), the handles. -/

namespace Sys2Proof.Machine

/-! ### How a command runs and ends -/

@[simp] theorem Run.bind_done {α β : Type} (a : α) (s : State) (f : α → State → Run β) : (Run.done a s).bind f = f a s := rfl
@[simp] theorem Run.bind_fatal {α β : Type} (c : FatalCode) (s : State) (f : α → State → Run β) :
    (Run.fatal c s : Run α).bind f = .fatal c s := rfl
@[simp] theorem Run.map_done {α β : Type} (g : α → β) (a : α) (s : State) : (Run.done a s).map g = .done (g a) s := rfl
@[simp] theorem Run.map_fatal {α β : Type} (g : α → β) (c : FatalCode) (s : State) :
    (Run.fatal c s : Run α).map g = .fatal c s := rfl
@[simp] theorem finish_done (r : Answer) (s : State) : finish (.done r s) = .next (s.withResult r) := rfl
@[simp] theorem finish_fatal (c : FatalCode) (s : State) : finish (.fatal c s) = .next (s.withResult (.fatal c)) := rfl

theorem Run.bind_eq_done {α β : Type} {x : Run α} {f : α → State → Run β} {b : β} {t : State}
    (h : x.bind f = .done b t) : ∃ a s, x = .done a s ∧ f a s = .done b t := by
  cases x with
  | done a s => exact ⟨a, s, rfl, h⟩
  | fatal c s => exact absurd h (by simp)

theorem Run.bind_eq_fatal {α β : Type} {x : Run α} {f : α → State → Run β} {c : FatalCode} {t : State}
    (h : x.bind f = .fatal c t) : x = .fatal c t ∨ ∃ a s, x = .done a s ∧ f a s = .fatal c t := by
  cases x with
  | done a s => exact .inr ⟨a, s, rfl, h⟩
  | fatal c' s => exact .inl (by simpa using h)

/-- A command on a block without a fault. -/
theorem command_of_unfaulted {s : State} (h : s.fault = none) (body : State → Run Answer) :
    command s body = finish (body s) := by
  simp [command, h]

/-- A command on a faulted block is refused (60_exceptions.md R161). -/
theorem command_of_faulted {s : State} {c : FatalCode} (h : s.fault = some c) (body : State → Run Answer) :
    command s body = .next (s.withResult (.returned .refused .nothing)) := by
  simp [command, h, refuse]

/-- A property of the state a body ends in, whichever way it ends. -/
def Run.Ends {α : Type} (x : Run α) (P : State → Prop) : Prop :=
  match x with
  | .done _ s => P s
  | .fatal _ s => P s

@[simp] theorem Run.ends_done {α : Type} (a : α) (s : State) (P : State → Prop) : (Run.done a s).Ends P ↔ P s := Iff.rfl
@[simp] theorem Run.ends_fatal {α : Type} (c : FatalCode) (s : State) (P : State → Prop) :
    (Run.fatal c s : Run α).Ends P ↔ P s := Iff.rfl

theorem Run.Ends.bind {α β : Type} {x : Run α} {f : α → State → Run β} {P Q : State → Prop} (h : x.Ends P)
    (hf : ∀ a s, x = .done a s → P s → (f a s).Ends Q) (hx : ∀ c s, x = .fatal c s → P s → Q s) : (x.bind f).Ends Q := by
  cases x with
  | done a s => exact hf a s rfl h
  | fatal c s => exact hx c s rfl h

theorem Run.ends_map {α β : Type} {g : α → β} {x : Run α} {P : State → Prop} : (x.map g).Ends P ↔ x.Ends P := by
  cases x <;> rfl

/-- A command always answers a next state: the body's end state with the answer, or the same state refused. -/
theorem command_cases (s : State) (body : State → Run Answer) :
    ∃ t, command s body = .next t ∧
      ((∃ c, s.fault = some c ∧ t = s.withResult (.returned .refused .nothing)) ∨
        (s.fault = none ∧ ∃ a u, body s = .done a u ∧ t = u.withResult a) ∨
        (s.fault = none ∧ ∃ c u, body s = .fatal c u ∧ t = u.withResult (.fatal c))) := by
  unfold command
  split
  · next c h => exact ⟨_, rfl, .inl ⟨c, h, rfl⟩⟩
  · next h =>
    cases hb : body s with
    | done a u => exact ⟨_, rfl, .inr (.inl ⟨h, a, u, rfl, rfl⟩)⟩
    | fatal c u => exact ⟨_, rfl, .inr (.inr ⟨h, c, u, rfl, rfl⟩)⟩

/-! ### The byte source -/

theorem streamRead_bytes (n : Nat) (s : State) : (streamRead n s).1 = (s.src.drop s.inPos).take n := rfl

theorem streamRead_length (n : Nat) (s : State) : (streamRead n s).1.length = min n (s.src.length - s.inPos) := by
  simp [streamRead]

theorem streamRead_state (n : Nat) (s : State) :
    (streamRead n s).2 = s.withInPos (s.inPos + min n (s.src.length - s.inPos)) := by
  simp [streamRead]

/-! ### The payload buffer -/

theorem Memory.read_eq_of_mem {m : Memory} (w : m.wf) {a : Nat} {b : Byte} (h : (a, b) ∈ m) : m.read a = b := by
  induction m with
  | nil => simp at h
  | cons c m ih =>
    obtain ⟨x, y⟩ := c
    rw [Memory.read, List.lookup_cons]
    rcases List.mem_cons.1 h with h | h
    · obtain ⟨rfl, rfl⟩ := Prod.mk.inj h
      simp
    · have hlt : x < a := (List.pairwise_cons.1 w.1).1 _ h
      have : (a == x) = false := by simp; omega
      rw [this]
      exact ih ⟨(List.pairwise_cons.1 w.1).2, fun c hc => w.2 c (List.mem_cons_of_mem _ hc)⟩ h

theorem Memory.read_eq_zero {m : Memory} {a : Nat} (h : ∀ b, (a, b) ∉ m) : m.read a = 0 := by
  have : m.lookup a = none := by
    rw [List.lookup_eq_none_iff]
    intro p hp
    simp only [bne_iff_ne, ne_eq]
    rintro rfl
    exact h p.2 hp
  simp [Memory.read, this]

/-- What a canonical buffer reads at an offset: the listed byte, which is not 0, or 0. -/
theorem Memory.read_iff {m : Memory} (w : m.wf) {a : Nat} {b : Byte} (hb : b ≠ 0) : m.read a = b ↔ (a, b) ∈ m := by
  constructor
  · intro h
    by_contra hm
    by_cases hx : ∃ x, (a, x) ∈ m
    · obtain ⟨x, hx⟩ := hx
      rw [Memory.read_eq_of_mem w hx] at h
      exact hm (h ▸ hx)
    · exact hb (h ▸ Memory.read_eq_zero fun x h' => hx ⟨x, h'⟩)
  · exact Memory.read_eq_of_mem w

theorem mem_cellsFrom {o : Nat} {bs : List Byte} {a : Nat} {b : Byte} :
    (a, b) ∈ cellsFrom o bs ↔ o ≤ a ∧ a < o + bs.length ∧ b = bs.getD (a - o) 0 ∧ b ≠ 0 := by
  induction bs generalizing o with
  | nil => simp [cellsFrom]
  | cons x bs ih =>
    have key : ((a, b) ∈ cellsFrom (o + 1) bs) ↔
        (o + 1 ≤ a ∧ a < o + 1 + bs.length ∧ b = (x :: bs).getD (a - o) 0 ∧ b ≠ 0) := by
      rw [ih]
      constructor
      · rintro ⟨h1, h2, h3, h4⟩
        refine ⟨h1, h2, ?_, h4⟩
        rw [h3, show a - o = (a - (o + 1)) + 1 by omega, List.getD_cons_succ]
      · rintro ⟨h1, h2, h3, h4⟩
        refine ⟨h1, h2, ?_, h4⟩
        rw [h3, show a - o = (a - (o + 1)) + 1 by omega, List.getD_cons_succ]
    have hlen : (x :: bs).length = bs.length + 1 := rfl
    by_cases hx : x = 0
    · rw [cellsFrom, if_pos hx, key, hlen]
      constructor
      · rintro ⟨h1, h2, h3, h4⟩; exact ⟨by omega, by omega, h3, h4⟩
      · rintro ⟨h1, h2, h3, h4⟩
        refine ⟨?_, by omega, h3, h4⟩
        by_contra hlt
        have : a = o := by omega
        subst this
        simp [hx] at h3
        exact h4 h3
    · rw [cellsFrom, if_neg hx, List.mem_cons, key, hlen]
      constructor
      · rintro (h | ⟨h1, h2, h3, h4⟩)
        · obtain ⟨rfl, rfl⟩ := Prod.mk.inj h
          exact ⟨le_rfl, by omega, by simp, hx⟩
        · exact ⟨by omega, by omega, h3, h4⟩
      · rintro ⟨h1, h2, h3, h4⟩
        by_cases ha : a = o
        · left; subst ha; simp at h3; rw [h3]
        · right; exact ⟨by omega, by omega, h3, h4⟩

theorem cellsFrom_pairwise (o : Nat) (bs : List Byte) : (cellsFrom o bs).Pairwise (fun a b => a.1 < b.1) := by
  induction bs generalizing o with
  | nil => simp [cellsFrom]
  | cons x bs ih =>
    unfold cellsFrom
    split
    · exact ih _
    · refine List.pairwise_cons.2 ⟨?_, ih _⟩
      rintro ⟨a, b⟩ h
      have := (mem_cellsFrom.1 h).1
      show o < a
      omega

theorem Memory.mem_write {m : Memory} {o : Nat} {bs : List Byte} {a : Nat} {b : Byte} :
    (a, b) ∈ m.write o bs ↔ (a, b) ∈ cellsFrom o bs ∨ ((a, b) ∈ m ∧ (a < o ∨ o + bs.length ≤ a)) := by
  simp only [Memory.write, List.mem_append, List.mem_filter, decide_eq_true_eq]
  tauto

/-- A write keeps the canonical form. -/
theorem Memory.write_wf {m : Memory} (w : m.wf) (o : Nat) (bs : List Byte) : (m.write o bs).wf := by
  refine ⟨?_, ?_⟩
  · simp only [Memory.write, List.append_assoc, List.pairwise_append, List.mem_append, List.mem_filter, decide_eq_true_eq]
    refine ⟨w.1.filter _, ⟨cellsFrom_pairwise o bs, w.1.filter _, ?_⟩, ?_⟩
    · rintro ⟨a, x⟩ ha ⟨b, y⟩ ⟨_, hb⟩
      have := (mem_cellsFrom.1 ha).2.1
      simp only at hb ⊢; omega
    · rintro ⟨a, x⟩ ⟨_, ha⟩ ⟨b, y⟩ (hb | ⟨_, hb⟩)
      · have := (mem_cellsFrom.1 hb).1
        simp only at ha ⊢; omega
      · simp only at ha hb ⊢; omega
  · rintro ⟨a, b⟩ h
    rcases Memory.mem_write.1 h with h | ⟨h, _⟩
    · exact (mem_cellsFrom.1 h).2.2.2
    · exact w.2 _ h

/-- Read after write: the stored byte inside the block, the old byte outside. -/
theorem Memory.read_write {m : Memory} (w : m.wf) (o : Nat) (bs : List Byte) (a : Nat) :
    (m.write o bs).read a = if o ≤ a ∧ a < o + bs.length then bs.getD (a - o) 0 else m.read a := by
  have w' := Memory.write_wf w o bs
  split
  · next h =>
    by_cases hb : bs.getD (a - o) 0 = 0
    · rw [hb]
      refine Memory.read_eq_zero fun b hm => ?_
      rcases Memory.mem_write.1 hm with hm | ⟨_, hm⟩
      · obtain ⟨_, _, h3, h4⟩ := mem_cellsFrom.1 hm
        exact h4 (h3.trans hb)
      · omega
    · exact (Memory.read_iff w' hb).2 (Memory.mem_write.2 (.inl (mem_cellsFrom.2 ⟨h.1, h.2, rfl, hb⟩)))
  · next h =>
    by_cases hx : ∃ b, (a, b) ∈ m
    · obtain ⟨b, hb⟩ := hx
      rw [Memory.read_eq_of_mem w hb]
      exact Memory.read_eq_of_mem w' (Memory.mem_write.2 (.inr ⟨hb, by omega⟩))
    · rw [Memory.read_eq_zero fun b hb => hx ⟨b, hb⟩]
      refine Memory.read_eq_zero fun b hm => ?_
      rcases Memory.mem_write.1 hm with hm | ⟨hm, _⟩
      · have := mem_cellsFrom.1 hm
        exact h ⟨this.1, this.2.1⟩
      · exact hx ⟨b, hm⟩

theorem Memory.readBytes_length (m : Memory) (o n : Nat) : (m.readBytes o n).length = n := by
  simp [Memory.readBytes]

/-- Bytes written are read back. -/
theorem Memory.readBytes_write {m : Memory} (w : m.wf) (o : Nat) (bs : List Byte) :
    (m.write o bs).readBytes o bs.length = bs := by
  refine List.ext_getElem (by simp [Memory.readBytes]) fun k h1 h2 => ?_
  simp only [Memory.readBytes, List.getElem_map, List.getElem_range]
  rw [Memory.read_write w, if_pos ⟨by omega, by omega⟩]
  simp [h2]

/-! ### Handles -/

theorem State.scratchIndex_eq_some {s : State} {h : Handle} {k : Nat} :
    s.scratchIndex h = some k ↔ h.toNat = 64 + k ∧ k < s.config.numScratch := by
  unfold State.scratchIndex
  split
  · simp; omega
  · simp; omega

theorem State.resolveW_eq_some {s : State} {h : Handle} {k : Nat} {c : Container} :
    s.resolveW h = some (k, c) ↔ h.toNat = 64 + k ∧ k < s.config.numScratch ∧ s.scratch[k]? = some c := by
  simp only [State.resolveW, Option.bind_eq_some_iff, Option.map_eq_some_iff, State.scratchIndex_eq_some, Prod.mk.injEq]
  constructor
  · rintro ⟨a, ⟨h1, h2⟩, x, h3, rfl, rfl⟩; exact ⟨h1, h2, h3⟩
  · rintro ⟨h1, h2, h3⟩; exact ⟨k, ⟨h1, h2⟩, c, h3, rfl, rfl⟩

/-- An elink's handle names its container for reading. -/
theorem State.resolveR_elink (s : State) {h : Handle} (e : ElinkId) (he : h.toNat = e.val) :
    s.resolveR h = some (s.elink e).bits := by
  have : h.toNat < 40 := by omega
  simp only [State.resolveR, this, dif_pos]
  congr 3
  exact Fin.ext he

/-- A scratch handle names the same container for reading as for writing. -/
theorem State.resolveR_scratch {s : State} {h : Handle} {k : Nat} {c : Container} (hw : s.resolveW h = some (k, c)) :
    s.resolveR h = some c := by
  have := (State.resolveW_eq_some.1 hw).1
  rw [State.resolveR, dif_neg (by omega), hw]; rfl

theorem reading_some {s : State} {h : Handle} {c : Container} (hc : s.resolveR h = some c) (k : Container → Run Answer) :
    reading s h k = k c := by simp [reading, hc]

theorem reading_none {s : State} {h : Handle} (hc : s.resolveR h = none) (k : Container → Run Answer) :
    reading s h k = raise .illegalCommand s := by simp [reading, hc]

theorem writing_some {s : State} {h : Handle} {j : Nat} {c : Container} (hc : s.resolveW h = some (j, c))
    (k : Nat → Container → Run Answer) : writing s h k = k j c := by simp [writing, hc]

theorem writing_none {s : State} {h : Handle} (hc : s.resolveW h = none) (k : Nat → Container → Run Answer) :
    writing s h k = raise .illegalCommand s := by simp [writing, hc]

/-- What `growAndWrite` can do: the grown container written, or `CONTAINER_CAPACITY` with nothing written. -/
theorem growAndWrite_cases (s : State) (j : Nat) (c : Container) (need : Nat) (w : Container → Container) :
    (∃ c', c.grow s.config.maxCapacityBits need = some c' ∧
        growAndWrite s j c need w = .done (ok .nothing) (s.withScratch j (w c'))) ∨
      (c.grow s.config.maxCapacityBits need = none ∧ growAndWrite s j c need w = raise .containerCapacity s) := by
  unfold growAndWrite
  cases h : c.grow s.config.maxCapacityBits need with
  | some c' => exact .inl ⟨c', rfl, rfl⟩
  | none => exact .inr ⟨rfl, rfl⟩

end Sys2Proof.Machine
end

