-- ==== Sys2Proof/Laws/Exec.lean ====
section
/-! SUPPORT. What exec and step can do, said once: every instruction but the two system commands is a `command` over a body, and a
step is one host action. -/

namespace Sys2Proof.Machine

/-- Every instruction but `SYS.STATUS` and `SYS.RESET` is a `command` over a body of its own (60_exceptions.md R161). -/
theorem exec_eq_command {i : Instr} (h1 : i ≠ .sysStatus) (h2 : ∀ src, i ≠ .sysReset src) :
    ∃ body : State → Run Answer, ∀ s, exec i s = command s body := by
  cases i
  case sysStatus => exact absurd rfl h1
  case sysReset src => exact absurd rfl (h2 src)
  all_goals exact ⟨_, fun _ => rfl⟩

/-- What a step can do: nothing, a command that decodes executed, a command that does not decode turned away, or a drain. -/
theorem step_cases (s : State) :
    (s.pending = [] ∧ step s = .next s) ∨
      (∃ raw rest i, s.pending = .issue raw :: rest ∧ decode (.command raw) = .ok i ∧
        step s = exec i (s.withPending rest)) ∨
      (∃ raw rest err, s.pending = .issue raw :: rest ∧ decode (.command raw) = .error err ∧
        step s = rejected (s.withPending rest)) ∨
      ∃ rest, s.pending = .drain :: rest ∧ step s = .next (drainHead (s.withPending rest)) := by
  unfold step
  split
  · next h => exact .inl ⟨h, rfl⟩
  · next a rest h =>
    cases a with
    | drain => exact .inr (.inr (.inr ⟨rest, h, rfl⟩))
    | issue raw =>
      cases hd : decode (.command raw) with
      | ok i =>
        refine .inr (.inl ⟨raw, rest, i, h, hd, ?_⟩)
        simp only [perform, issueCommand, hd]
      | error err =>
        refine .inr (.inr (.inl ⟨raw, rest, err, h, hd, ?_⟩))
        simp only [perform, issueCommand, hd]

end Sys2Proof.Machine
end

