-- ==== Sys2Proof/Laws/Elink.lean ====
section
/-! SUPPORT. The elink operations as functions of one bank alone: what each does to the bank, which packets it emits, whether it
raises; and that running the operation on the block is running that effect on the bank (44_elink.md R146). -/

namespace Sys2Proof.Machine

/-- What an elink operation does: the bank it leaves, the packets it emits, and the fatal it raises, if any. -/
structure ElinkEffect where
  bank : Elink
  out : List Packet
  fatal : Option FatalCode
  deriving DecidableEq, Repr

/-- The block once elink `e` has the bank `b` and has emitted `ps`. -/
def State.afterElink (s : State) (e : ElinkId) (b : Elink) (ps : List Packet) : State :=
  { s.withElink e b with out := s.out ++ ps }

/-- An effect on elink `e`, run on the block. -/
def ElinkEffect.run (x : ElinkEffect) (e : ElinkId) (s : State) : Run (Option Packet) :=
  match x.fatal with
  | some c => raise c (s.afterElink e x.bank x.out)
  | none => .done x.out.head? (s.afterElink e x.bank x.out)

/-- `hunt(e)` on the bank (44_elink.md R131). -/
def Elink.huntEffect (b : Elink) : ElinkEffect :=
  if b.bits.last50 = syncPattern then ⟨b.acquire syncPattern, [], none⟩ else ⟨b.slide, [], none⟩

/-- `header_data` on the bank (44_elink.md R134). -/
def Elink.headerDataEffect (e : ElinkId) (h : Sdh) (b : Elink) : ElinkEffect :=
  if (Sdh.numWords h).toNat = 0 then ⟨b.rearm 50, [{ sdh := h, elinkId := e, clusters := [] }], none⟩
  else ⟨b.enterData (Sdh.numWords h).toNat, [], none⟩

/-- `header_sync` on the bank (44_elink.md R135). -/
def Elink.headerSyncEffect (h : Sdh) (b : Elink) : ElinkEffect :=
  if h ≠ syncPattern then ⟨b, [], some .syncPatternMismatch⟩ else ⟨b.countSync, [], none⟩

/-- The HEADER arm of `h` on the bank (44_elink.md R133). -/
def Elink.headerArmEffect (e : ElinkId) (h : Sdh) (b : Elink) : ElinkEffect :=
  match (Sdh.pkt h).toNat with
  | 0 => ⟨b.rearm 50, [], none⟩
  | 1 => b.headerDataEffect e h
  | 2 => b.headerSyncEffect h
  | 3 => b.headerDataEffect e h
  | 4 => b.headerDataEffect e h
  | 5 => ⟨b.rearm 50, [], none⟩
  | 6 => b.headerDataEffect e h
  | 7 => b.headerDataEffect e h
  | _ => ⟨b.rearm 50, [], none⟩

/-- `header(e)` on the bank (44_elink.md R133). -/
def Elink.headerEffect (e : ElinkId) (b : Elink) : ElinkEffect :=
  (b.withSdh b.bits.last50).headerArmEffect e b.bits.last50

/-- `data(e)` on the bank (44_elink.md R139). -/
def Elink.dataEffect (e : ElinkId) (b : Elink) : ElinkEffect :=
  match decodeClusters b.bits.split10 with
  | none => ⟨b, [], some .payloadOverrun⟩
  | some cs => ⟨b.leaveData, [{ sdh := b.sdh, elinkId := e, clusters := cs }], none⟩

/-- `process(e)` on the bank (44_elink.md R130). -/
def Elink.processEffect (e : ElinkId) (b : Elink) : ElinkEffect :=
  if b.bits.len ≠ b.checkpoint then ⟨b, [], some .checkpointMismatch⟩
  else if b.indata = true ∧ b.nsync = 0 then ⟨b, [], some .elinkStateInconsistent⟩
  else
    match b.state with
    | .data => b.dataEffect e
    | .hunt => b.huntEffect
    | .header => b.headerEffect e

/-- The bank with its container grown to `c` and one bit more (44_elink.md R127). -/
def Elink.store (b : Elink) (c : Container) (v : Bool) : Elink := { b with bits := c.set c.len v }

/-- `push(e, v)` on the bank (44_elink.md R127). -/
def Elink.pushEffect (max : Nat) (e : ElinkId) (v : Bool) (b : Elink) : ElinkEffect :=
  match b.bits.grow max (b.bits.len + 1) with
  | none => ⟨b, [], some .containerCapacity⟩
  | some c =>
    if (b.store c v).bits.len = (b.store c v).checkpoint then (b.store c v).processEffect e else ⟨b.store c v, [], none⟩

/-- `append(e, v0, v1)` on the bank (44_elink.md R128). -/
def Elink.appendEffect (max : Nat) (e : ElinkId) (v0 v1 : Bool) (b : Elink) : ElinkEffect :=
  match (b.pushEffect max e v0).fatal with
  | some _ => b.pushEffect max e v0
  | none =>
    { (b.pushEffect max e v0).bank.pushEffect max e v1 with
      out := (b.pushEffect max e v0).out ++ ((b.pushEffect max e v0).bank.pushEffect max e v1).out }

/-! ### The block after an effect -/

@[simp] theorem State.afterElink_nil (s : State) (e : ElinkId) (b : Elink) : s.afterElink e b [] = s.withElink e b := by
  simp [State.afterElink, State.withElink]

theorem State.withElink_emit (s : State) (e : ElinkId) (b : Elink) (p : Packet) :
    (s.withElink e b).emit p = s.afterElink e b [p] := rfl

@[simp] theorem State.afterElink_elink (s : State) (e e' : ElinkId) (b : Elink) (ps : List Packet) :
    (s.afterElink e b ps).elink e' = if e' = e then b else s.elink e' := State.withElink_elink s e e' b

@[simp] theorem State.afterElink_out (s : State) (e : ElinkId) (b : Elink) (ps : List Packet) :
    (s.afterElink e b ps).out = s.out ++ ps := rfl

@[simp] theorem State.afterElink_config (s : State) (e : ElinkId) (b : Elink) (ps : List Packet) :
    (s.afterElink e b ps).config = s.config := rfl

@[simp] theorem State.afterElink_fault (s : State) (e : ElinkId) (b : Elink) (ps : List Packet) :
    (s.afterElink e b ps).fault = s.fault := rfl

theorem State.afterElink_afterElink (s : State) (e : ElinkId) (b b' : Elink) (ps ps' : List Packet) :
    (s.afterElink e b ps).afterElink e b' ps' = s.afterElink e b' (ps ++ ps') := by
  simp [State.afterElink, State.withElink, List.append_assoc]

/-- A bank replaced first makes no difference to an effect. -/
theorem ElinkEffect.run_withElink (x : ElinkEffect) (e : ElinkId) (s : State) (b : Elink) :
    x.run e (s.withElink e b) = x.run e s := by
  have h : (s.withElink e b).afterElink e x.bank x.out = s.afterElink e x.bank x.out := by
    simp [State.afterElink, State.withElink]
  simp only [ElinkEffect.run, h]

/-! ### The operations are their effects -/

theorem raise_at (c : FatalCode) (s : State) (e : ElinkId) :
    (raise c s : Run (Option Packet)) = (ElinkEffect.mk (s.elink e) [] (some c)).run e s := by
  simp [ElinkEffect.run, State.withElink_self]

theorem huntMatch_eq (e : ElinkId) (s : State) :
    huntMatch e s = .done none (s.withElink e ((s.elink e).acquire syncPattern)) := by
  rw [huntMatch, if_neg (by decide)]

theorem hunt_eq (e : ElinkId) (s : State) : hunt e s = ((s.elink e).huntEffect).run e s := by
  unfold hunt Elink.huntEffect
  split <;> simp [ElinkEffect.run, huntMatch_eq]

theorem headerReset_eq (e : ElinkId) (s : State) :
    headerReset e s = (ElinkEffect.mk ((s.elink e).rearm 50) [] none).run e s := by
  simp [headerReset, ElinkEffect.run]

theorem headerData_eq (e : ElinkId) (h : Sdh) (s : State) :
    headerData e h s = ((s.elink e).headerDataEffect e h).run e s := by
  unfold headerData Elink.headerDataEffect
  split <;> simp [ElinkEffect.run, State.withElink_emit]

theorem headerSync_eq (e : ElinkId) (h : Sdh) (s : State) :
    headerSync e h s = ((s.elink e).headerSyncEffect h).run e s := by
  unfold headerSync Elink.headerSyncEffect
  split
  · exact raise_at _ s e
  · simp [ElinkEffect.run]

theorem headerArm_eq (e : ElinkId) (h : Sdh) (s : State) :
    headerArm e h s = ((s.elink e).headerArmEffect e h).run e s := by
  have hlt := (Sdh.pkt h).isLt
  unfold headerArm Elink.headerArmEffect
  generalize (Sdh.pkt h).toNat = n at hlt
  interval_cases n <;> first | exact headerReset_eq e s | exact headerData_eq e h s | exact headerSync_eq e h s

theorem header_eq (e : ElinkId) (s : State) : header e s = ((s.elink e).headerEffect e).run e s := by
  unfold header Elink.headerEffect
  rw [headerArm_eq]
  simp only [storeSdh, State.withElink_elink_self, ElinkEffect.run_withElink]

theorem data_eq (e : ElinkId) (s : State) : data e s = ((s.elink e).dataEffect e).run e s := by
  unfold data Elink.dataEffect
  cases decodeClusters (s.elink e).bits.split10 with
  | none => exact raise_at _ s e
  | some cs => simp [ElinkEffect.run, State.withElink_emit]

theorem process_eq (e : ElinkId) (s : State) : process e s = ((s.elink e).processEffect e).run e s := by
  unfold process Elink.processEffect
  split
  · exact raise_at _ s e
  · split
    · exact raise_at _ s e
    · cases (s.elink e).state with
      | data => exact data_eq e s
      | hunt => exact hunt_eq e s
      | header => exact header_eq e s

theorem push_eq (e : ElinkId) (v : Bool) (s : State) :
    push e v s = ((s.elink e).pushEffect s.config.maxCapacityBits e v).run e s := by
  unfold push Elink.pushEffect
  cases (s.elink e).bits.grow s.config.maxCapacityBits ((s.elink e).bits.len + 1) with
  | none => exact raise_at _ s e
  | some c =>
    have h : storeBit e c v s = s.withElink e ((s.elink e).store c v) := rfl
    simp only [h, State.withElink_elink_self]
    split
    · rw [process_eq, State.withElink_elink_self, ElinkEffect.run_withElink]
    · simp [ElinkEffect.run]

theorem append_eq (e : ElinkId) (v0 v1 : Bool) (s : State) :
    append e v0 v1 s = ((s.elink e).appendEffect s.config.maxCapacityBits e v0 v1).run e s := by
  unfold append Elink.appendEffect
  rw [push_eq]
  generalize hx : (s.elink e).pushEffect s.config.maxCapacityBits e v0 = x
  cases hf : x.fatal with
  | some c => simp [ElinkEffect.run, hf, Run.bind, raise]
  | none =>
    simp only [ElinkEffect.run, hf, Run.bind]
    rw [push_eq]
    simp only [State.afterElink_elink, if_true, State.afterElink_config]
    generalize x.bank.pushEffect s.config.maxCapacityBits e v1 = y
    cases hy : y.fatal with
    | some c => simp [ElinkEffect.run, hy, Run.map, Run.bind, raise, State.afterElink_afterElink]
    | none => simp [ElinkEffect.run, hy, Run.map, Run.bind, State.afterElink_afterElink, List.head?_append]

theorem forceClear_eq (e : ElinkId) (s : State) : forceClear e s = s.withElink e (s.elink e).forceClear := rfl

/-! ### What an effect emits -/

/-- A push emits at most one packet, and one that emits a packet raises nothing and leaves the bank empty with checkpoint 50
(44_elink.md R129, R134, R139). -/
theorem Elink.pushEffect_out (max : Nat) (e : ElinkId) (v : Bool) (b : Elink) :
    (b.pushEffect max e v).out = [] ∨
      ∃ p, (b.pushEffect max e v).out = [p] ∧ (b.pushEffect max e v).fatal = none ∧
        (b.pushEffect max e v).bank.bits.len = 0 ∧ (b.pushEffect max e v).bank.checkpoint = 50 := by
  have hdata : ∀ h : Sdh, ∀ b : Elink, (b.headerDataEffect e h).out = [] ∨ ∃ p, (b.headerDataEffect e h).out = [p] ∧
      (b.headerDataEffect e h).fatal = none ∧ (b.headerDataEffect e h).bank.bits.len = 0 ∧
      (b.headerDataEffect e h).bank.checkpoint = 50 := by
    intro h b
    unfold Elink.headerDataEffect
    split
    · exact .inr ⟨_, rfl, rfl, rfl, rfl⟩
    · exact .inl rfl
  have hsync : ∀ h : Sdh, ∀ b : Elink, (b.headerSyncEffect h).out = [] := by
    intro h b
    unfold Elink.headerSyncEffect
    split <;> rfl
  unfold Elink.pushEffect
  split
  · exact .inl rfl
  · split
    · generalize b.store _ v = b'
      unfold Elink.processEffect
      split
      · exact .inl rfl
      · split
        · exact .inl rfl
        · split
          · unfold Elink.dataEffect
            split
            · exact .inl rfl
            · exact .inr ⟨_, rfl, rfl, rfl, rfl⟩
          · unfold Elink.huntEffect
            split <;> exact .inl rfl
          · unfold Elink.headerEffect Elink.headerArmEffect
            split <;> first | exact .inl rfl | exact hdata _ _ | exact .inl (hsync _ _)
    · exact .inl rfl

/-- A push on an empty bank with checkpoint 50 emits nothing: after a packet the next bit completes none (44_elink.md R129). -/
theorem Elink.pushEffect_room {b : Elink} (max : Nat) (e : ElinkId) (v : Bool) (hl : b.bits.len = 0) (hc : b.checkpoint = 50) :
    (b.pushEffect max e v).out = [] := by
  unfold Elink.pushEffect
  split
  · rfl
  · next c h =>
    have hlen : c.len = 0 := by rw [(Container.grow_eq_some h).1, hl]
    rw [if_neg]
    show Nat.max c.len (c.len + 1) ≠ b.checkpoint
    rw [hlen, hc]
    decide

end Sys2Proof.Machine
end

