-- ==== Sys2Proof/Laws/PerInstr.lean ====
section
/-! SUPPORT. The family TableRow: every instruction's encoding agrees with its row of spec/opcode_table.json, that is, its word
under the row's mask is the row's match. -/

namespace Sys2Proof.Laws.TableRow

/-- The bits of a fetched unit that the opcode table numbers: a command's opcode, or a header word. -/
def word : Fetched → BitVec 50
  | .command c => c.opcode.setWidth 50
  | .hunt _ w => w
  | .header _ w => w

/-- The mask of an instruction's row. -/
def mask : Instr → BitVec 50
  | .bcGet _ _ => 0xFF
  | .bcSet _ _ _ => 0xFF
  | .bcAppend _ _ => 0xFF
  | .bcClear _ => 0xFF
  | .bcSetr8 _ _ _ _ => 0xFF
  | .bcSetr16 _ _ _ _ => 0xFF
  | .bcSetr32 _ _ _ _ => 0xFF
  | .bcSetr64 _ _ _ _ => 0xFF
  | .bcUint8 _ _ _ => 0xFF
  | .bcUint16 _ _ _ => 0xFF
  | .bcUint32 _ _ _ => 0xFF
  | .bcUint64 _ _ _ => 0xFF
  | .bcSetbytes _ _ => 0xFF
  | .bcSearch _ _ => 0xFF
  | .bcLast _ _ _ => 0xFF
  | .bcPrune _ _ => 0xFF
  | .bcEqual _ _ => 0xFF
  | .bcCount _ => 0xFF
  | .bcLen _ => 0xFF
  | .bcStrl _ => 0xFF
  | .bcStrr _ => 0xFF
  | .bcFromstr _ _ => 0xFF
  | .bcFromu8 _ _ => 0xFF
  | .bcFromu16 _ _ => 0xFF
  | .bcFromu32 _ _ => 0xFF
  | .bcFromu64 _ _ => 0xFF
  | .rdNextevent => 0xFF
  | .rdNextgbt => 0xFF
  | .dspWord _ => 0xFF
  | .dspClearall => 0xFF
  | .elAppend _ _ _ => 0xFF
  | .elPush _ _ => 0xFF
  | .elForceclear _ => 0xFF
  | .elIsempty _ => 0xFF
  | .elRead _ => 0xFF
  | .plStep => 0xFF
  | .cfgSetmask _ => 0xFF
  | .cfgGetmask => 0xFF
  | .sysStatus => 0xFF
  | .sysReset _ => 0xFF
  | .sdhHeartbeat _ _ => 0x380
  | .sdhDataTruncated _ _ => 0x380
  | .sdhSync _ _ => 0x380
  | .sdhDataTruncatedTriggerTooEarly _ _ => 0x380
  | .sdhData _ _ => 0x380
  | .sdhDataNumwords _ _ => 0x380
  | .sdhDataTriggerTooEarly _ _ => 0x380
  | .sdhDataTriggerTooEarlyNumwords _ _ => 0x380
  | .sdhSyncPatternHuntMatch _ => 0x3FFFFFFFFFFFF

/-- The match value of an instruction's row. -/
def pattern : Instr → BitVec 50
  | .bcGet _ _ => 0x10
  | .bcSet _ _ _ => 0x11
  | .bcAppend _ _ => 0x12
  | .bcClear _ => 0x13
  | .bcSetr8 _ _ _ _ => 0x14
  | .bcSetr16 _ _ _ _ => 0x15
  | .bcSetr32 _ _ _ _ => 0x16
  | .bcSetr64 _ _ _ _ => 0x17
  | .bcUint8 _ _ _ => 0x18
  | .bcUint16 _ _ _ => 0x19
  | .bcUint32 _ _ _ => 0x1A
  | .bcUint64 _ _ _ => 0x1B
  | .bcSetbytes _ _ => 0x1C
  | .bcSearch _ _ => 0x1D
  | .bcLast _ _ _ => 0x1E
  | .bcPrune _ _ => 0x1F
  | .bcEqual _ _ => 0x20
  | .bcCount _ => 0x21
  | .bcLen _ => 0x22
  | .bcStrl _ => 0x23
  | .bcStrr _ => 0x24
  | .bcFromstr _ _ => 0x25
  | .bcFromu8 _ _ => 0x26
  | .bcFromu16 _ _ => 0x27
  | .bcFromu32 _ _ => 0x28
  | .bcFromu64 _ _ => 0x29
  | .rdNextevent => 0x30
  | .rdNextgbt => 0x31
  | .dspWord _ => 0x40
  | .dspClearall => 0x41
  | .elAppend _ _ _ => 0x50
  | .elPush _ _ => 0x51
  | .elForceclear _ => 0x52
  | .elIsempty _ => 0x53
  | .elRead _ => 0x54
  | .plStep => 0x60
  | .cfgSetmask _ => 0x61
  | .cfgGetmask => 0x62
  | .sysStatus => 0x63
  | .sysReset _ => 0x7F
  | .sdhHeartbeat _ _ => 0x0
  | .sdhDataTruncated _ _ => 0x80
  | .sdhSync _ _ => 0x100
  | .sdhDataTruncatedTriggerTooEarly _ _ => 0x180
  | .sdhData _ _ => 0x200
  | .sdhDataNumwords _ _ => 0x280
  | .sdhDataTriggerTooEarly _ _ => 0x300
  | .sdhDataTriggerTooEarlyNumwords _ _ => 0x380
  | .sdhSyncPatternHuntMatch _ => 0x1555540F00113

/-- The instruction's word is one of its row. -/
def Statement (i : Instr) : Prop := word (encode i) &&& mask i = pattern i

/-- A header row's word under the mask of PKT. -/
theorem header_row {p : BitVec 3} {m : BitVec 50} (f : SdhFields) (h : BitVec.setWidth 50 p <<< 7 = m) :
    Sdh.pack p f &&& 0x380#50 = m := (Sdh.pack_and p f).trans h

theorem bcGet (h : Handle) (i : Int) : Statement (.bcGet h i) :=
  show BitVec.setWidth 50 0x10#8 &&& 0xFF#50 = 0x10#50 by decide
theorem bcSet (h : Handle) (i : Int) (v : Bool) : Statement (.bcSet h i v) :=
  show BitVec.setWidth 50 0x11#8 &&& 0xFF#50 = 0x11#50 by decide
theorem bcAppend (h : Handle) (v : Bool) : Statement (.bcAppend h v) :=
  show BitVec.setWidth 50 0x12#8 &&& 0xFF#50 = 0x12#50 by decide
theorem bcClear (h : Handle) : Statement (.bcClear h) :=
  show BitVec.setWidth 50 0x13#8 &&& 0xFF#50 = 0x13#50 by decide
theorem bcSetr8 (h : Handle) (a b : Int) (x : BitVec 8) : Statement (.bcSetr8 h a b x) :=
  show BitVec.setWidth 50 0x14#8 &&& 0xFF#50 = 0x14#50 by decide
theorem bcSetr16 (h : Handle) (a b : Int) (x : BitVec 16) : Statement (.bcSetr16 h a b x) :=
  show BitVec.setWidth 50 0x15#8 &&& 0xFF#50 = 0x15#50 by decide
theorem bcSetr32 (h : Handle) (a b : Int) (x : BitVec 32) : Statement (.bcSetr32 h a b x) :=
  show BitVec.setWidth 50 0x16#8 &&& 0xFF#50 = 0x16#50 by decide
theorem bcSetr64 (h : Handle) (a b : Int) (x : BitVec 64) : Statement (.bcSetr64 h a b x) :=
  show BitVec.setWidth 50 0x17#8 &&& 0xFF#50 = 0x17#50 by decide
theorem bcUint8 (h : Handle) (a b : Int) : Statement (.bcUint8 h a b) :=
  show BitVec.setWidth 50 0x18#8 &&& 0xFF#50 = 0x18#50 by decide
theorem bcUint16 (h : Handle) (a b : Int) : Statement (.bcUint16 h a b) :=
  show BitVec.setWidth 50 0x19#8 &&& 0xFF#50 = 0x19#50 by decide
theorem bcUint32 (h : Handle) (a b : Int) : Statement (.bcUint32 h a b) :=
  show BitVec.setWidth 50 0x1A#8 &&& 0xFF#50 = 0x1A#50 by decide
theorem bcUint64 (h : Handle) (a b : Int) : Statement (.bcUint64 h a b) :=
  show BitVec.setWidth 50 0x1B#8 &&& 0xFF#50 = 0x1B#50 by decide
theorem bcSetbytes (h : Handle) (bs : List Byte) : Statement (.bcSetbytes h bs) :=
  show BitVec.setWidth 50 0x1C#8 &&& 0xFF#50 = 0x1C#50 by decide
theorem bcSearch (h p : Handle) : Statement (.bcSearch h p) :=
  show BitVec.setWidth 50 0x1D#8 &&& 0xFF#50 = 0x1D#50 by decide
theorem bcLast (d h : Handle) (n : Int) : Statement (.bcLast d h n) :=
  show BitVec.setWidth 50 0x1E#8 &&& 0xFF#50 = 0x1E#50 by decide
theorem bcPrune (h : Handle) (n : Int) : Statement (.bcPrune h n) :=
  show BitVec.setWidth 50 0x1F#8 &&& 0xFF#50 = 0x1F#50 by decide
theorem bcEqual (h p : Handle) : Statement (.bcEqual h p) :=
  show BitVec.setWidth 50 0x20#8 &&& 0xFF#50 = 0x20#50 by decide
theorem bcCount (h : Handle) : Statement (.bcCount h) :=
  show BitVec.setWidth 50 0x21#8 &&& 0xFF#50 = 0x21#50 by decide
theorem bcLen (h : Handle) : Statement (.bcLen h) :=
  show BitVec.setWidth 50 0x22#8 &&& 0xFF#50 = 0x22#50 by decide
theorem bcStrl (h : Handle) : Statement (.bcStrl h) :=
  show BitVec.setWidth 50 0x23#8 &&& 0xFF#50 = 0x23#50 by decide
theorem bcStrr (h : Handle) : Statement (.bcStrr h) :=
  show BitVec.setWidth 50 0x24#8 &&& 0xFF#50 = 0x24#50 by decide
theorem bcFromstr (h : Handle) (cs : List Char) : Statement (.bcFromstr h cs) :=
  show BitVec.setWidth 50 0x25#8 &&& 0xFF#50 = 0x25#50 by decide
theorem bcFromu8 (h : Handle) (x : BitVec 8) : Statement (.bcFromu8 h x) :=
  show BitVec.setWidth 50 0x26#8 &&& 0xFF#50 = 0x26#50 by decide
theorem bcFromu16 (h : Handle) (x : BitVec 16) : Statement (.bcFromu16 h x) :=
  show BitVec.setWidth 50 0x27#8 &&& 0xFF#50 = 0x27#50 by decide
theorem bcFromu32 (h : Handle) (x : BitVec 32) : Statement (.bcFromu32 h x) :=
  show BitVec.setWidth 50 0x28#8 &&& 0xFF#50 = 0x28#50 by decide
theorem bcFromu64 (h : Handle) (x : BitVec 64) : Statement (.bcFromu64 h x) :=
  show BitVec.setWidth 50 0x29#8 &&& 0xFF#50 = 0x29#50 by decide
theorem rdNextevent : Statement (.rdNextevent) :=
  show BitVec.setWidth 50 0x30#8 &&& 0xFF#50 = 0x30#50 by decide
theorem rdNextgbt : Statement (.rdNextgbt) :=
  show BitVec.setWidth 50 0x31#8 &&& 0xFF#50 = 0x31#50 by decide
theorem dspWord (g : List Byte) : Statement (.dspWord g) :=
  show BitVec.setWidth 50 0x40#8 &&& 0xFF#50 = 0x40#50 by decide
theorem dspClearall : Statement (.dspClearall) :=
  show BitVec.setWidth 50 0x41#8 &&& 0xFF#50 = 0x41#50 by decide
theorem elAppend (e : ElinkId) (v0 v1 : Bool) : Statement (.elAppend e v0 v1) :=
  show BitVec.setWidth 50 0x50#8 &&& 0xFF#50 = 0x50#50 by decide
theorem elPush (e : ElinkId) (v : Bool) : Statement (.elPush e v) :=
  show BitVec.setWidth 50 0x51#8 &&& 0xFF#50 = 0x51#50 by decide
theorem elForceclear (e : ElinkId) : Statement (.elForceclear e) :=
  show BitVec.setWidth 50 0x52#8 &&& 0xFF#50 = 0x52#50 by decide
theorem elIsempty (e : ElinkId) : Statement (.elIsempty e) :=
  show BitVec.setWidth 50 0x53#8 &&& 0xFF#50 = 0x53#50 by decide
theorem elRead (e : ElinkId) : Statement (.elRead e) :=
  show BitVec.setWidth 50 0x54#8 &&& 0xFF#50 = 0x54#50 by decide
theorem plStep : Statement (.plStep) :=
  show BitVec.setWidth 50 0x60#8 &&& 0xFF#50 = 0x60#50 by decide
theorem cfgSetmask (m : BitVec 40) : Statement (.cfgSetmask m) :=
  show BitVec.setWidth 50 0x61#8 &&& 0xFF#50 = 0x61#50 by decide
theorem cfgGetmask : Statement (.cfgGetmask) :=
  show BitVec.setWidth 50 0x62#8 &&& 0xFF#50 = 0x62#50 by decide
theorem sysStatus : Statement (.sysStatus) :=
  show BitVec.setWidth 50 0x63#8 &&& 0xFF#50 = 0x63#50 by decide
theorem sysReset (src : List Byte) : Statement (.sysReset src) :=
  show BitVec.setWidth 50 0x7F#8 &&& 0xFF#50 = 0x7F#50 by decide
theorem sdhHeartbeat (e : ElinkId) (f : SdhFields) : Statement (.sdhHeartbeat e f) :=
  header_row f (show BitVec.setWidth 50 0#3 <<< 7 = 0x0#50 by decide)
theorem sdhDataTruncated (e : ElinkId) (f : SdhFields) : Statement (.sdhDataTruncated e f) :=
  header_row f (show BitVec.setWidth 50 1#3 <<< 7 = 0x80#50 by decide)
theorem sdhSync (e : ElinkId) (f : SdhFields) : Statement (.sdhSync e f) :=
  header_row f (show BitVec.setWidth 50 2#3 <<< 7 = 0x100#50 by decide)
theorem sdhDataTruncatedTriggerTooEarly (e : ElinkId) (f : SdhFields) : Statement (.sdhDataTruncatedTriggerTooEarly e f) :=
  header_row f (show BitVec.setWidth 50 3#3 <<< 7 = 0x180#50 by decide)
theorem sdhData (e : ElinkId) (f : SdhFields) : Statement (.sdhData e f) :=
  header_row f (show BitVec.setWidth 50 4#3 <<< 7 = 0x200#50 by decide)
theorem sdhDataNumwords (e : ElinkId) (f : SdhFields) : Statement (.sdhDataNumwords e f) :=
  header_row f (show BitVec.setWidth 50 5#3 <<< 7 = 0x280#50 by decide)
theorem sdhDataTriggerTooEarly (e : ElinkId) (f : SdhFields) : Statement (.sdhDataTriggerTooEarly e f) :=
  header_row f (show BitVec.setWidth 50 6#3 <<< 7 = 0x300#50 by decide)
theorem sdhDataTriggerTooEarlyNumwords (e : ElinkId) (f : SdhFields) : Statement (.sdhDataTriggerTooEarlyNumwords e f) :=
  header_row f (show BitVec.setWidth 50 7#3 <<< 7 = 0x380#50 by decide)
theorem sdhSyncPatternHuntMatch (e : ElinkId) : Statement (.sdhSyncPatternHuntMatch e) :=
  show syncPattern &&& 0x3FFFFFFFFFFFF#50 = 0x1555540F00113#50 by decide

end Sys2Proof.Laws.TableRow
end

