-- ==== Sys2Proof/Machine/Assembly.lean ====
section
/-! DEFINITION. The assembly syntax of commands (30_encoding.md R82), read into the command format of R77: a line of text becomes
an opcode and its operand fields. Whether the command is legal is the decoder's business (R80). Log 17. -/

namespace Sys2Proof.Machine

/-! ### Characters and numbers -/

/-- The double quote. -/
def isQuote (c : Char) : Bool := c.toNat == 34

/-- The value of a hexadecimal digit. -/
def hexDigit (c : Char) : Option Nat :=
  if '0'.toNat ≤ c.toNat ∧ c.toNat ≤ '9'.toNat then some (c.toNat - '0'.toNat)
  else if 'A'.toNat ≤ c.toNat ∧ c.toNat ≤ 'F'.toNat then some (c.toNat - 'A'.toNat + 10)
  else if 'a'.toNat ≤ c.toNat ∧ c.toNat ≤ 'f'.toNat then some (c.toNat - 'a'.toNat + 10)
  else none

/-- One digit more at the right of a number in a base. -/
def addDigit (base : Nat) (acc : Option Nat) (c : Char) : Option Nat :=
  acc.bind fun n => (hexDigit c).bind fun d => if d < base then some (base * n + d) else none

/-- A number in a base, of at least one digit. -/
def readDigits (base : Nat) (cs : List Char) : Option Nat :=
  match cs with
  | [] => none
  | _ :: _ => cs.foldl (addDigit base) (some 0)

/-- A natural number, decimal or `0x` hexadecimal (30_encoding.md R82). -/
def readNat (cs : List Char) : Option Nat :=
  match cs with
  | '0' :: 'x' :: ds => readDigits 16 ds
  | _ => readDigits 10 cs

/-- An integer, with a minus sign before it or without, in either of the two characters for it (30_encoding.md R82, log 17). -/
def readInt (cs : List Char) : Option Int :=
  match cs with
  | '-' :: ds => (readNat ds).map fun n => -(n : Int)
  | '−' :: ds => (readNat ds).map fun n => -(n : Int)
  | _ => (readNat cs).map fun n => (n : Int)

/-- The text without the spaces at its ends. -/
def trimSpaces (cs : List Char) : List Char :=
  ((cs.dropWhile (· == ' ')).reverse.dropWhile (· == ' ')).reverse

/-- The text cut at the commas that stand outside brackets and double quotes; `cur` is the piece begun, reversed. -/
def cutCommas (bracket quote : Bool) (cur : List Char) : List Char → List (List Char)
  | [] => [trimSpaces cur.reverse]
  | c :: cs =>
      if c = ',' ∧ bracket = false ∧ quote = false then trimSpaces cur.reverse :: cutCommas false false [] cs
      else if isQuote c then cutCommas bracket (!quote) (c :: cur) cs
      else if c = '[' ∧ quote = false then cutCommas true quote (c :: cur) cs
      else if c = ']' ∧ quote = false then cutCommas false quote (c :: cur) cs
      else cutCommas bracket quote (c :: cur) cs

/-- The pieces of an operand list; an empty text has none. -/
def pieces (cs : List Char) : List (List Char) :=
  match trimSpaces cs with
  | [] => []
  | c :: ds => cutCommas false false [] (c :: ds)

/-- Every piece read, in order, or nothing. -/
def readAll {α : Type} (f : List Char → Option α) : List (List Char) → Option (List α)
  | [] => some []
  | p :: ps => (f p).bind fun x => (readAll f ps).map fun xs => x :: xs

/-! ### Operands -/

/-- The written forms of an operand (30_encoding.md R82). -/
inductive OperandForm where
  | handle
  | integer
  | decimal
  | bytes
  | string
  deriving DecidableEq, Repr

/-- A handle: `E0`..`E39` for an elink's container, `T0`, `T1`, ... for a scratch container (30_encoding.md R82, R78). -/
def readHandle (cs : List Char) : Option Operand :=
  match cs with
  | 'E' :: ds => (readDigits 10 ds).bind fun n => if n < 40 then some (.int (n : Int)) else none
  | 'T' :: ds => (readDigits 10 ds).map fun n => .int (64 + (n : Int))
  | _ => none

/-- A byte in hexadecimal. -/
def readByte (cs : List Char) : Option Byte :=
  (readDigits 16 cs).bind fun n => if n < 256 then some (BitVec.ofNat 8 n) else none

/-- A byte sequence, `[b0, b1, ...]` (30_encoding.md R82). -/
def readBytes (cs : List Char) : Option Operand :=
  match cs with
  | '[' :: ds =>
    match ds.reverse with
    | ']' :: rs => (readAll readByte (pieces rs.reverse)).map .bytes
    | _ => none
  | _ => none

/-- A string in double quotes (30_encoding.md R82). -/
def readString (cs : List Char) : Option Operand :=
  match cs with
  | q :: c :: ds =>
    match (c :: ds).reverse with
    | q' :: rs => if isQuote q && isQuote q' && !rs.any isQuote then some (.str rs.reverse) else none
    | [] => none
  | _ => none

/-- An operand in the form its place asks for. -/
def readOperand (k : OperandForm) (cs : List Char) : Option Operand :=
  match k with
  | .handle => readHandle cs
  | .integer => (readInt cs).map .int
  | .decimal => (readDigits 10 cs).map fun n => .int (n : Int)
  | .bytes => readBytes cs
  | .string => readString cs

/-- The operands of a command, as many as it takes. -/
def readOperands : List OperandForm → List (List Char) → Option (List Operand)
  | [], [] => some []
  | k :: ks, p :: ps => (readOperand k p).bind fun x => (readOperands ks ps).map fun xs => x :: xs
  | _, _ => none

/-! ### Lines -/

/-- A mnemonic of 30_encoding.md R79 with its opcode and the forms of its operands. -/
structure AssemblyRow where
  mnemonic : String
  opcode : BitVec 8
  forms : List OperandForm
  deriving DecidableEq, Repr

/-- The rows of the bit-container commands (30_encoding.md R79). -/
def containerRows : List AssemblyRow :=
  [⟨"BC.GET", 0x10, [.handle, .integer]⟩, ⟨"BC.SET", 0x11, [.handle, .integer, .decimal]⟩,
   ⟨"BC.APPEND", 0x12, [.handle, .decimal]⟩, ⟨"BC.CLEAR", 0x13, [.handle]⟩,
   ⟨"BC.SETR8", 0x14, [.handle, .integer, .integer, .integer]⟩, ⟨"BC.SETR16", 0x15, [.handle, .integer, .integer, .integer]⟩,
   ⟨"BC.SETR32", 0x16, [.handle, .integer, .integer, .integer]⟩, ⟨"BC.SETR64", 0x17, [.handle, .integer, .integer, .integer]⟩,
   ⟨"BC.UINT8", 0x18, [.handle, .integer, .integer]⟩, ⟨"BC.UINT16", 0x19, [.handle, .integer, .integer]⟩,
   ⟨"BC.UINT32", 0x1A, [.handle, .integer, .integer]⟩, ⟨"BC.UINT64", 0x1B, [.handle, .integer, .integer]⟩,
   ⟨"BC.SETBYTES", 0x1C, [.handle, .bytes]⟩, ⟨"BC.SEARCH", 0x1D, [.handle, .handle]⟩,
   ⟨"BC.LAST", 0x1E, [.handle, .handle, .integer]⟩, ⟨"BC.PRUNE", 0x1F, [.handle, .integer]⟩,
   ⟨"BC.EQUAL", 0x20, [.handle, .handle]⟩, ⟨"BC.COUNT", 0x21, [.handle]⟩, ⟨"BC.LEN", 0x22, [.handle]⟩,
   ⟨"BC.STRL", 0x23, [.handle]⟩, ⟨"BC.STRR", 0x24, [.handle]⟩, ⟨"BC.FROMSTR", 0x25, [.handle, .string]⟩,
   ⟨"BC.FROMU8", 0x26, [.handle, .integer]⟩, ⟨"BC.FROMU16", 0x27, [.handle, .integer]⟩,
   ⟨"BC.FROMU32", 0x28, [.handle, .integer]⟩, ⟨"BC.FROMU64", 0x29, [.handle, .integer]⟩]

/-- The rows of the other commands (30_encoding.md R79). -/
def blockRows : List AssemblyRow :=
  [⟨"RD.NEXTEVENT", 0x30, []⟩, ⟨"RD.NEXTGBT", 0x31, []⟩, ⟨"DSP.WORD", 0x40, [.bytes]⟩, ⟨"DSP.CLEARALL", 0x41, []⟩,
   ⟨"EL.APPEND", 0x50, [.decimal, .decimal, .decimal]⟩, ⟨"EL.PUSH", 0x51, [.decimal, .decimal]⟩,
   ⟨"EL.FORCECLEAR", 0x52, [.decimal]⟩, ⟨"EL.ISEMPTY", 0x53, [.decimal]⟩, ⟨"EL.READ", 0x54, [.decimal]⟩,
   ⟨"PL.STEP", 0x60, []⟩, ⟨"CFG.SETMASK", 0x61, [.integer]⟩, ⟨"CFG.GETMASK", 0x62, []⟩, ⟨"SYS.STATUS", 0x63, []⟩,
   ⟨"SYS.RESET", 0x7F, [.bytes]⟩]

/-- A line `MNEMONIC operand, operand, ...` as a command, or nothing where it is no line of the syntax (30_encoding.md R82). -/
def assemble (line : String) : Option RawCommand :=
  let cs := trimSpaces line.toList
  let name := cs.takeWhile (· != ' ')
  ((containerRows ++ blockRows).find? fun r => r.mnemonic.toList == name).bind fun r =>
    (readOperands r.forms (pieces (cs.drop name.length))).map fun ops => ⟨r.opcode, ops⟩

/-! ### Command sequences with a name -/

/-- "feed bit string": `EL.PUSH` for each bit in index order (30_encoding.md R82). -/
def feedBits (e : ElinkId) (bits : List Bool) : List HostAction :=
  bits.map fun v => .issue ⟨0x51, [.ofElink e, .ofBit v]⟩

/-- `n` turns of "run": `PL.STEP`, which the host repeats until `EOF` or a fault (30_encoding.md R82, 45_pipeline.md R149). -/
def runTurns (n : Nat) : List HostAction := List.replicate n (.issue ⟨0x60, []⟩)

end Sys2Proof.Machine
end

