-- ==== Sys2Proof/Tests/Slice0.lean ====
section
/-! SUPPORT. The model's own tests: ill-formed terms refused, words written out from spec/30_encoding.md decoded, one-step tests
whose expected results are worked in spec/95_test_vectors.md or by hand from the rules, and for each obligation with hypotheses a
state and operands that meet them. -/

set_option Elab.async false

namespace Sys2Proof.Tests

open Sys2Proof Sys2Proof.Machine Sys2Proof.Claims

/-! ### Small states -/

/-- The parameters of 95_test_vectors.md section 1. -/
def cfg : Config := Config.withDispatchBytes 1

/-- The reset state over a byte source. -/
def fresh (src : List Byte) : State := State.resetWith cfg src

/-- The container that a bit string in index order spells. -/
def spelled (cap : Nat) (s : String) : Container :=
  ⟨s.length, cap, (s.toList.zipIdx.filter fun p => p.1 == '1').map (·.2)⟩

/-- The reset state with the given bit strings in its scratch containers. -/
def scr (l : List String) : State :=
  { fresh [] with scratch := l.map (spelled 64) ++ List.replicate (4 - l.length) ⟨0, 64, []⟩ }

/-- The bits of a container in index order. -/
def bitsOf (c : Container) : String :=
  String.ofList ((List.range c.len).map fun k => if k ∈ c.ones then '1' else '0')

/-- Elink 0's bank in the reset state replaced. -/
def with0 (b : Elink) : State := { fresh [] with elinks := (fresh []).elinks.set 0 b }

/-- A bank of capacity 100 000. -/
def bankOf (bits : String) (checkpoint : Nat) (indata : Bool) (nsync : Nat) (sdh : Sdh) : Elink :=
  { bits := spelled 100000 bits, checkpoint := checkpoint, indata := indata, nsync := nsync, sdh := sdh }

/-- The first 49 bits of the sync pattern in push order (30_encoding.md R73). -/
def sync49 : String := "1100100010000000000011110000001010101010101010101"

/-- The answer of an outcome. -/
def answer (o : Out) : Option Answer :=
  match o with
  | .next t => some t.result
  | .fault _ => none
  | .refused _ => none

/-- A scratch container after an outcome: its bits, its length, its capacity. -/
def left (k : Nat) (o : Out) : Option (String × Nat × Nat) :=
  match o with
  | .next t => (t.scratch[k]?).map fun c => (if c.len < 300 then bitsOf c else "", c.len, c.cap)
  | .fault _ => none
  | .refused _ => none

/-- What `EL.READ e` would read after an outcome: nsync, indata, checkpoint, length, sdh. -/
def elink (e : ElinkId) (o : Out) : Option (Nat × Bool × Nat × Nat × Nat) :=
  match o with
  | .next t => some ((t.elink e).nsync, (t.elink e).indata, (t.elink e).checkpoint, (t.elink e).bits.len, (t.elink e).sdh.toNat)
  | .fault _ => none
  | .refused _ => none

/-- The output queue after an outcome. -/
def queue (o : Out) : Option (List Packet) :=
  match o with
  | .next t => some t.out
  | .fault _ => none
  | .refused _ => none

/-- The status tuple of 95_test_vectors.md section 1. -/
structure Tuple where
  fault : Option FatalCode
  halted : Bool
  phase : RdPhase
  eventsRead : Nat
  gbtWords : Nat
  out : Nat
  inPos : Nat
  deriving DecidableEq, Repr

/-- The status tuple after an outcome. -/
def status (o : Out) : Option Tuple :=
  match o with
  | .next t => some ⟨t.fault, t.halted, t.rdPhase, t.eventsRead, t.gbtWords, t.out.length, t.inPos⟩
  | .fault _ => none
  | .refused _ => none

/-- A state whose next action is a command. -/
def issuing (s : State) (opcode : Nat) (l : List Operand) : State :=
  { s with pending := [.issue ⟨BitVec.ofNat 8 opcode, l⟩] }

/-- The four bytes of a u32, the least significant first. -/
def bytes4 (n : Nat) : List Byte := [BitVec.ofNat 8 n, BitVec.ofNat 8 (n / 256), BitVec.ofNat 8 (n / 65536), BitVec.ofNat 8 (n / 16777216)]

/-- `hdr(es, magic)` of 95_test_vectors.md section 1. -/
def hdrM (es magic : Nat) : List Byte := bytes4 es ++ bytes4 magic ++ List.replicate 72 0

/-- `hdr(es)`. -/
def hdr (es : Nat) : List Byte := hdrM es 0xDA1E5AFE

/-- The payload of `frame(L)`, `L > 40`. -/
def pay (L : Nat) : List Byte := (bytes4 L ++ List.replicate (L - 4) 0).set 40 1

/-- A payload buffer holding some bytes from offset 0. -/
def stored (bs : List Byte) : Memory :=
  (bs.zipIdx.filter fun p => p.1 ≠ 0).map fun p => (p.2, p.1)

/-- A state in phase `LOADED` with a payload. -/
def loaded (bs : List Byte) : State :=
  { fresh [] with rdPhase := .loaded, payload := stored bs, size := bs.length, eventsRead := 1 }

/-! ### Ill-formed terms are refused (30_encoding.md R78) -/

/-- An elink's handle in every writing position. -/
theorem test_illformed_write_elink :
    [Instr.bcSet 39 0 true, .bcAppend 0 true, .bcClear 0, .bcSetr8 0 0 7 0, .bcSetr16 0 0 7 0, .bcSetr32 0 0 7 0,
      .bcSetr64 39 0 7 0, .bcSetbytes 0 [], .bcLast 0 64 0, .bcPrune 0 0, .bcFromstr 0 [], .bcFromu8 0 0, .bcFromu16 0 0,
      .bcFromu32 0 0, .bcFromu64 39 0].all (fun i => !i.wellFormed cfg) = true := by decide +kernel

/-- A handle that names nothing (40, 63, 68, 255), in every reading position. -/
theorem test_illformed_read :
    [Instr.bcGet 40 0, .bcUint8 63 0 7, .bcUint16 68 0 7, .bcUint32 255 0 7, .bcUint64 40 0 7, .bcSearch 40 64, .bcSearch 64 68,
      .bcLast 64 40 0, .bcEqual 63 64, .bcEqual 64 63, .bcCount 40, .bcLen 63, .bcStrl 68, .bcStrr 255].all
      (fun i => !i.wellFormed cfg) = true := by decide +kernel

/-- The handles R78 allows at the ends of their ranges. -/
theorem test_wellformed_boundaries :
    [Instr.bcGet 0 0, .bcGet 39 0, .bcGet 64 0, .bcGet 67 0, .bcSet 64 0 true, .bcSet 67 0 true, .bcLast 67 39 0, .bcSearch 0 39,
      .plStep, .elPush 39 true].all (fun i => i.wellFormed cfg) = true := by decide +kernel

/-! ### Words written out from the encodings (30_encoding.md R70, R79) -/

/-- Every `BC.*` opcode byte, written in bits, with operand fields. -/
theorem test_decode_containers :
    [((0b00010000#8, [Operand.int 64, .int (-1)]), Instr.bcGet 64 (-1)), ((0b00010001#8, [.int 64, .int 5, .int 1]), .bcSet 64 5 true),
      ((0b00010010#8, [.int 65, .int 0]), .bcAppend 65 false), ((0b00010011#8, [.int 66]), .bcClear 66),
      ((0b00010100#8, [.int 64, .int 16, .int 19, .int 9]), .bcSetr8 64 16 19 9),
      ((0b00010101#8, [.int 64, .int 3, .int 10, .int 0xFF]), .bcSetr16 64 3 10 0xFF),
      ((0b00010110#8, [.int 64, .int 0, .int 31, .int 0xFFFFFFFF]), .bcSetr32 64 0 31 0xFFFFFFFF),
      ((0b00010111#8, [.int 64, .int 0, .int 63, .int 1]), .bcSetr64 64 0 63 1),
      ((0b00011000#8, [.int 64, .int 4, .int 11]), .bcUint8 64 4 11), ((0b00011001#8, [.int 7, .int 0, .int (-1)]), .bcUint16 7 0 (-1)),
      ((0b00011010#8, [.int 64, .int 0, .int 31]), .bcUint32 64 0 31), ((0b00011011#8, [.int 64, .int 0, .int 63]), .bcUint64 64 0 63),
      ((0b00011100#8, [.int 64, .bytes [0xB4, 1]]), .bcSetbytes 64 [0xB4, 1]), ((0b00011101#8, [.int 64, .int 65]), .bcSearch 64 65),
      ((0b00011110#8, [.int 66, .int 64, .int 8]), .bcLast 66 64 8), ((0b00011111#8, [.int 64, .int 4]), .bcPrune 64 4),
      ((0b00100000#8, [.int 66, .int 65]), .bcEqual 66 65), ((0b00100001#8, [.int 64]), .bcCount 64),
      ((0b00100010#8, [.int 64]), .bcLen 64), ((0b00100011#8, [.int 64]), .bcStrl 64), ((0b00100100#8, [.int 66]), .bcStrr 66),
      ((0b00100101#8, [.int 65, .str "0011".toList]), .bcFromstr 65 "0011".toList),
      ((0b00100110#8, [.int 64, .int 0]), .bcFromu8 64 0), ((0b00100111#8, [.int 64, .int 0xA5C3]), .bcFromu16 64 0xA5C3),
      ((0b00101000#8, [.int 64, .int 0x80000000]), .bcFromu32 64 0x80000000),
      ((0b00101001#8, [.int 64, .int 0x0123456789ABCDEF]), .bcFromu64 64 0x0123456789ABCDEF)].all
      (fun p => decide (decode (.command ⟨p.1.1, p.1.2⟩) = .ok p.2)) = true := by decide +kernel

/-- Every other opcode byte, written in bits, with operand fields. -/
theorem test_decode_block :
    [((0b00110000#8, ([] : List Operand)), Instr.rdNextevent), ((0b00110001#8, []), .rdNextgbt),
      ((0b01000000#8, [.bytes [0xB4, 0, 0, 0, 0, 0, 0, 0, 0, 0]]), .dspWord [0xB4, 0, 0, 0, 0, 0, 0, 0, 0, 0]),
      ((0b01000001#8, []), .dspClearall), ((0b01010000#8, [.int 5, .int 1, .int 0]), .elAppend 5 true false),
      ((0b01010001#8, [.int 39, .int 1]), .elPush 39 true), ((0b01010010#8, [.int 2]), .elForceclear 2),
      ((0b01010011#8, [.int 0]), .elIsempty 0), ((0b01010100#8, [.int 1]), .elRead 1), ((0b01100000#8, []), .plStep),
      ((0b01100001#8, [.int 0xFFFFFFFFFF]), .cfgSetmask 0xFFFFFFFFFF), ((0b01100010#8, []), .cfgGetmask),
      ((0b01100011#8, []), .sysStatus), ((0b01111111#8, [.bytes [1, 2]]), .sysReset [1, 2])].all
      (fun p => decide (decode (.command ⟨p.1.1, p.1.2⟩) = .ok p.2)) = true := by decide +kernel

/-- Header words, the fields DP, BXcount, CHadd, Hadd, NumWords, PKT, P, Hamming written in bits from the left (R70). -/
theorem test_decode_headers :
    [(0b0#1 ++ 0b00000000000000000001#20 ++ 0b00000#5 ++ 0b0000#4 ++ 0b0000000000#10 ++ 0b000#3 ++ 0b1#1 ++ 0b000010#6,
        Instr.sdhHeartbeat 0 ⟨2, 1, 0, 0, 0, 1, 0⟩),
      (0b0#1 ++ 0b00000000000000000000#20 ++ 0b11111#5 ++ 0b1010#4 ++ 0b0000000010#10 ++ 0b001#3 ++ 0b0#1 ++ 0b000000#6,
        .sdhDataTruncated 0 ⟨0, 0, 2, 0xA, 0x1F, 0, 0⟩),
      (0b0#1 ++ 0b10101010101010101010#20 ++ 0b00000#5 ++ 0b1111#4 ++ 0b0000000000#10 ++ 0b010#3 ++ 0b0#1 ++ 0b010011#6,
        .sdhSync 0 ⟨0x13, 0, 0, 0xF, 0, 0xAAAAA, 0⟩),
      (0b1#1 ++ 0b00000000000000000000#20 ++ 0b00000#5 ++ 0b0000#4 ++ 0b1111111111#10 ++ 0b011#3 ++ 0b0#1 ++ 0b000000#6,
        .sdhDataTruncatedTriggerTooEarly 0 ⟨0, 0, 1023, 0, 0, 0, 1⟩),
      (0b0#1 ++ 0b00000000000000000000#20 ++ 0b00111#5 ++ 0b0011#4 ++ 0b0000000100#10 ++ 0b100#3 ++ 0b0#1 ++ 0b000000#6,
        .sdhData 0 ⟨0, 0, 4, 3, 7, 0, 0⟩),
      (0b0#1 ++ 0b00000000000000000000#20 ++ 0b00000#5 ++ 0b0000#4 ++ 0b0000000011#10 ++ 0b101#3 ++ 0b0#1 ++ 0b000000#6,
        .sdhDataNumwords 0 ⟨0, 0, 3, 0, 0, 0, 0⟩),
      (0b0#1 ++ 0b00000000000000000000#20 ++ 0b00000#5 ++ 0b0000#4 ++ 0b0000000001#10 ++ 0b110#3 ++ 0b0#1 ++ 0b000000#6,
        .sdhDataTriggerTooEarly 0 ⟨0, 0, 1, 0, 0, 0, 0⟩),
      (0b0#1 ++ 0b00000000000000000000#20 ++ 0b00101#5 ++ 0b0010#4 ++ 0b0000000111#10 ++ 0b111#3 ++ 0b0#1 ++ 0b000000#6,
        .sdhDataTriggerTooEarlyNumwords 0 ⟨0, 0, 7, 2, 5, 0, 0⟩)].all
      (fun p => decide (decode (.header 0 p.1) = .ok p.2)) = true := by decide +kernel

/-- The HUNT window: the sync pattern matches, one bit off does not (30_encoding.md R73, 44_elink.md R131). -/
theorem test_decode_hunt :
    decode (.hunt 3 (0b0#1 ++ 0b10101010101010101010#20 ++ 0b00000#5 ++ 0b1111#4 ++ 0b0000000000#10 ++ 0b010#3 ++ 0b0#1 ++ 0b010011#6)) =
      .ok (.sdhSyncPatternHuntMatch 3) ∧
    decode (.hunt 3 0x1555560F00113) = .error .noSyncMatch := by decide +kernel

/-- What R80 rejects: an opcode outside the map, a count, a kind, an elink, a bit, a value, a mask. -/
theorem test_decode_rejects :
    [(⟨0x0F, []⟩, DecodeError.unknownOpcode), (⟨0x2A, []⟩, .unknownOpcode), (⟨0x80, []⟩, .unknownOpcode),
      (⟨0x60, [.int 0]⟩, .operandCount), (⟨0x10, [.int 64]⟩, .operandCount), (⟨0x40, [.int 0]⟩, .operandKind),
      (⟨0x50, [.int 40, .int 0, .int 0]⟩, .elinkRange), (⟨0x51, [.int 0, .int 2]⟩, .bitRange),
      (⟨0x14, [.int 64, .int 0, .int 8, .int 0x1FF]⟩, .valueRange), (⟨0x61, [.int 0x10000000000]⟩, .maskRange),
      (⟨0x22, [.int 256]⟩, .handleWidth)].all
      (fun p : RawCommand × DecodeError => decide (decode (.command p.1) = .error p.2)) = true := by decide +kernel

/-- Words of spec/opcode_table.json, numbered as the table numbers them. -/
theorem test_table_words :
    decodeTableWord 8 0x60 = some .plStep ∧ decodeTableWord 8 0x50 = some (.elAppend 0 false false) ∧
      decodeTableWord 16 0x200 = some (.sdhData 0 ⟨0, 0, 0, 0, 0, 0, 0⟩) ∧
      decodeTableWord 56 0x1555540F00113 = some (.sdhSyncPatternHuntMatch 0) ∧ decodeTableWord 8 0x2A = none := by decide +kernel

/-! ### The assembly syntax (30_encoding.md R82) -/

theorem test_assemble_examples :
    assemble "BC.SETR16 T0, 3, 10, 0xFF" = some ⟨0x15, [.int 64, .int 3, .int 10, .int 0xFF]⟩ ∧
      assemble "EL.APPEND 5, 1, 0" = some ⟨0x50, [.int 5, .int 1, .int 0]⟩ ∧
      assemble "DSP.WORD [B4, 00, 00, 00, 00, 00, 00, 00, 00, 00]" =
        some ⟨0x40, [.bytes [0xB4, 0, 0, 0, 0, 0, 0, 0, 0, 0]]⟩ := by decide +kernel

theorem test_assemble_forms :
    assemble "BC.UINT16 E39, 0, −1" = some ⟨0x19, [.int 39, .int 0, .int (-1)]⟩ ∧
      assemble "BC.FROMSTR T1, \"0011\"" = some ⟨0x25, [.int 65, .str "0011".toList]⟩ ∧
      assemble "SYS.RESET [ ]" = some ⟨0x7F, [.bytes []]⟩ ∧ assemble "BC.SET 64, 0, 1" = none ∧ assemble "BC.SET E40, 0, 1" = none ∧
      assemble "PL.STEP 1" = none := by decide +kernel

/-! ### One step each: the bit container (95_test_vectors.md 3.1, P1) -/

theorem test_bc_get : answer (exec (.bcGet 64 1) (scr ["01"])) = some (.returned .ok (.bit true)) := by decide +kernel
theorem test_bc_get_range : answer (exec (.bcGet 64 2) (scr ["01"])) = some (.fatal .containerRange) := by decide +kernel
theorem test_bc_set_gap : left 0 (exec (.bcSet 64 5 false) (fresh [])) = some ("000000", 6, 64) := by decide +kernel
theorem test_bc_set_grows :
    left 0 (exec (.bcSet 64 1073741823 true) (fresh [])) = some ("", 1073741824, 1073741824) ∧
      answer (exec (.bcSet 64 1073741824 true) (fresh [])) = some (.fatal .containerCapacity) := by decide +kernel
theorem test_bc_append : left 1 (exec (.bcAppend 65 true) (scr ["", "010"])) = some ("0101", 4, 64) := by decide +kernel
theorem test_bc_clear : left 0 (exec (.bcClear 64) (scr ["0110"])) = some ("", 0, 64) := by decide +kernel
theorem test_bc_setr8 :
    left 0 (exec (.bcSetr8 64 16 19 9) (scr ["1100001110100101"])) = some ("11000011101001011001", 20, 64) := by decide +kernel
theorem test_bc_setr8_width : answer (exec (.bcSetr8 64 0 8 0) (fresh [])) = some (.fatal .containerWidth) := by decide +kernel
theorem test_bc_setr16 : left 0 (exec (.bcSetr16 64 3 10 0xFF) (fresh [])) = some ("00011111111", 11, 64) := by decide +kernel
theorem test_bc_setr32 : left 0 (exec (.bcSetr32 64 1 2 0xFFFFFFFE) (scr ["1111"])) = some ("1011", 4, 64) := by decide +kernel
theorem test_bc_setr64 : left 0 (exec (.bcSetr64 64 64 64 3) (fresh [])) =
    some ("00000000000000000000000000000000000000000000000000000000000000001", 65, 128) := by
  decide +kernel
theorem test_bc_uint8 : answer (exec (.bcUint8 64 4 11) (scr ["1100001110100101"])) = some (.returned .ok (.u8 0x5C)) := by decide +kernel
theorem test_bc_uint8_order : answer (exec (.bcUint8 64 2 1) (scr ["0110"])) = some (.fatal .containerRange) := by decide +kernel
theorem test_bc_uint16 :
    answer (exec (.bcUint16 64 0 (-1)) (scr ["0011101001011001"])) = some (.returned .ok (.u16 0x9A5C)) := by decide +kernel
theorem test_bc_uint32 : answer (exec (.bcUint32 64 1 3) (scr ["01011"])) = some (.returned .ok (.u32 5)) := by decide +kernel
theorem test_bc_uint64 :
    answer (exec (.bcUint64 64 0 49) (scr ["11001000100000000000111100000010101010101010101010"])) =
      some (.returned .ok (.u64 0x1555540F00113)) := by decide +kernel
theorem test_bc_setbytes : left 0 (exec (.bcSetbytes 64 [0xB4, 0x01]) (scr ["111"])) = some ("0010110110000000", 16, 64) := by decide +kernel
theorem test_bc_search :
    answer (exec (.bcSearch 64 65) (scr ["010101", "0101"])) = some (.returned .ok (.nat 0)) ∧
      answer (exec (.bcSearch 64 65) (scr ["0010110", "11"])) = some (.returned .ok (.nat 4)) ∧
      answer (exec (.bcSearch 64 65) (scr ["0101", "01010"])) = some (.returned .notFound .nothing) := by decide +kernel
theorem test_bc_search_empty : answer (exec (.bcSearch 64 65) (scr ["0101"])) = some (.fatal .containerEmptyPattern) := by decide +kernel
theorem test_bc_last : left 2 (exec (.bcLast 66 64 8) (scr ["11000011101001011001"])) = some ("01011001", 8, 64) := by decide +kernel
theorem test_bc_last_range : answer (exec (.bcLast 65 64 5) (scr ["0110"])) = some (.fatal .containerRange) := by decide +kernel
theorem test_bc_prune :
    left 0 (exec (.bcPrune 64 4) (scr ["11000011101001011001"])) = some ("0011101001011001", 16, 64) := by decide +kernel
theorem test_bc_prune_all : left 0 (exec (.bcPrune 64 4) (scr ["0110"])) = some ("", 0, 64) := by decide +kernel
theorem test_bc_equal :
    answer (exec (.bcEqual 64 65) (scr ["01", "010"])) = some (.returned .ok (.bit false)) ∧
      answer (exec (.bcEqual 66 66) (scr ["", "", "01011001"])) = some (.returned .ok (.bit true)) := by decide +kernel
theorem test_bc_count :
    answer (exec (.bcCount 64) (scr ["11001000100000000000111100000010101010101010101010"])) = some (.returned .ok (.nat 18)) := by
  decide +kernel
theorem test_bc_len : answer (exec (.bcLen 64) (scr ["000000"])) = some (.returned .ok (.nat 6)) := by decide +kernel
theorem test_bc_strl : answer (exec (.bcStrl 64) (scr ["0010"])) = some (.returned .ok (.string "0010".toList)) := by decide +kernel
theorem test_bc_strr : answer (exec (.bcStrr 66) (scr ["", "", "01011001"])) = some (.returned .ok (.string "10011010".toList)) := by
  decide +kernel
theorem test_bc_fromstr : left 1 (exec (.bcFromstr 65 "0011".toList) (scr ["", "111111"])) = some ("0011", 4, 64) := by decide +kernel
theorem test_bc_fromstr_bad :
    answer (exec (.bcFromstr 64 "01x".toList) (scr ["1"])) = some (.fatal .containerBadChar) ∧
      left 0 (exec (.bcFromstr 64 "01x".toList) (scr ["1"])) = some ("1", 1, 64) := by decide +kernel
theorem test_bc_fromu8 : left 0 (exec (.bcFromu8 64 0) (scr ["11"])) = some ("00000000", 8, 64) := by decide +kernel
theorem test_bc_fromu16 : left 0 (exec (.bcFromu16 64 0xA5C3) (fresh [])) = some ("1100001110100101", 16, 64) := by decide +kernel
theorem test_bc_fromu32 : left 0 (exec (.bcFromu32 64 0x80000001) (fresh [])) =
    some ("10000000000000000000000000000001", 32, 64) := by decide +kernel
theorem test_bc_fromu64 : left 0 (exec (.bcFromu64 64 0xF) (fresh [])) =
    some ("1111000000000000000000000000000000000000000000000000000000000000", 64, 64) := by decide +kernel

/-! ### One step each: the reader and the extractor (95_test_vectors.md 3.2, 3.3) -/

/-- V-RD-1, V-RD-3, V-RD-4, V-RD-5, V-RD-6, V-RD-8. -/
theorem test_rd_nextevent :
    status (exec .rdNextevent (fresh (hdr 80))) = some ⟨none, false, .loaded, 1, 0, 0, 80⟩ ∧
      status (exec .rdNextevent (fresh (hdrM 80 0xDEADBEEF))) = some ⟨some .badMagic, false, .needEvent, 0, 0, 0, 80⟩ ∧
      status (exec .rdNextevent (fresh ((hdr 80).take 40))) = some ⟨some .shortHeader, false, .needEvent, 0, 0, 0, 40⟩ ∧
      status (exec .rdNextevent (fresh (hdr 79))) = some ⟨some .badEventSize, false, .needEvent, 0, 0, 0, 80⟩ ∧
      status (exec .rdNextevent (fresh (hdr 100 ++ List.replicate 10 0))) =
        some ⟨some .shortPayload, false, .needEvent, 0, 0, 0, 90⟩ ∧
      status (exec .rdNextevent (fresh (hdr 83 ++ [0, 0, 0]))) =
        some ⟨some .equipmentSizeMismatch, false, .needEvent, 0, 0, 0, 83⟩ := by decide +kernel

/-- V-RD-7's frame, returned whole. -/
theorem test_rd_nextevent_payload :
    answer (exec .rdNextevent (fresh (hdr 84 ++ bytes4 4))) = some (.returned .ok (.event (hdr 84) [4, 0, 0, 0] 4)) := by
  decide +kernel

/-- V-RD-10 and V-RD-11 at the edges: 91 bytes hold no window, 92 one; a marker in byte 43 is no SOP. -/
theorem test_rd_nextgbt :
    answer (exec .rdNextgbt (loaded (pay 91))) = some (.returned .errEndOfEvent .nothing) ∧
      answer (exec .rdNextgbt (loaded (pay 92))) = some (.returned .ok (.gbt [0, 0, 0, 0, 0, 0, 0, 0, 0, 0])) ∧
      answer (exec .rdNextgbt (loaded (((pay 92).set 40 0).set 43 1))) = some (.returned .errInvalidSop .nothing) ∧
      answer (exec .rdNextgbt (fresh (hdr 80))) = some (.returned .errEmptyEvent .nothing) := by decide +kernel

/-- V-GBT-1: the reshuffle of one window. -/
theorem test_rd_nextgbt_reshuffle :
    answer (exec .rdNextgbt
      (loaded ((pay 92).take 44 ++ [9, 9, 9, 9, 2, 1, 0xBB, 0xAA, 6, 5, 4, 3, 0x10, 9, 8, 7] ++ List.replicate 32 0))) =
      some (.returned .ok (.gbt [0x10, 9, 8, 7, 6, 5, 4, 3, 2, 1])) := by decide +kernel

/-! ### One step each: Dispatch (95_test_vectors.md 3.4) -/

/-- The bits elinks 0 to 4 hold after an outcome. -/
def five (o : Out) : Option (List String) :=
  match o with
  | .next t => some ([0, 1, 2, 3, 4].map fun e => bitsOf (t.elink e).bits)
  | .fault _ => none
  | .refused _ => none

/-- V-DSP-1 and, with elink 1 masked, V-DSP-2. -/
theorem test_dsp_word :
    five (exec (.dspWord [0xB4, 0, 0, 0, 0, 0, 0, 0, 0, 0]) (fresh [])) = some ["00", "01", "11", "10", ""] ∧
      five (exec (.dspWord [0xB4, 0, 0, 0, 0, 0, 0, 0, 0, 0]) { fresh [] with mask := 2 }) = some ["00", "", "11", "10", ""] := by
  decide +kernel

/-- V-DSP-3, and V-DSP-6 on elinks 24 and 39. -/
theorem test_dsp_word_bytes :
    answer (exec (.dspWord [0, 0, 0, 0, 0, 0, 0, 0, 0]) (fresh [])) = some (.returned .errIncorrectSize .nothing) ∧
      (match exec (.dspWord [1, 2, 3, 4, 5, 6, 7, 8, 9, 10]) (State.resetWith (Config.withDispatchBytes 10) []) with
        | .next t => some ((bitsOf (t.elink 24).bits, bitsOf (t.elink 39).bits, bitsOf (t.elink 33).bits))
        | .fault _ => none
        | .refused _ => none) = some ("11", "00", "10") := by decide +kernel

/-- `DSP.CLEARALL` on an elink in DATA (V-EL-10, V-EL-11): the header stays. -/
theorem test_dsp_clearall :
    elink 0 (exec .dspClearall (with0 (bankOf "111" 50 true 1 0x1600))) = some (0, false, 50, 0, 0x1600) := by decide +kernel

/-! ### One step each: the elink (95_test_vectors.md 3.5) -/

/-- The bit that completes the sync pattern acquires; the 50th of another word slides (X4, V-EL-12). -/
theorem test_el_push_hunt :
    elink 0 (exec (.elPush 0 false) (with0 (bankOf sync49 50 false 0 0))) = some (1, false, 50, 0, 0x1555540F00113) ∧
      elink 0 (exec (.elPush 0 true) (with0 (bankOf sync49 50 false 0 0))) = some (0, false, 51, 50, 0) := by decide +kernel

/-- V-EL-4's last bit and V-EL-7's: a packet, a payload overrun. -/
theorem test_el_push_data :
    queue (exec (.elPush 0 false) (with0 (bankOf "100000000001010100000010111110000000000" 40 true 1 0x7301200))) =
        some [⟨0x7301200, 0, [⟨42, [500]⟩]⟩] ∧
      answer (exec (.elPush 0 false) (with0 (bankOf "1010000000100000000" 20 true 1 0xA00))) = some (.fatal .payloadOverrun) := by
  decide +kernel

/-- A pair across a boundary: the first bit completes the header, the second is the payload's first bit (44_elink.md R129). -/
theorem test_el_append :
    elink 0 (exec (.elAppend 0 false true) (with0 (bankOf "0000000001001000000011001110000000000000000000000" 50 false 1 0))) =
      some (1, true, 40, 1, 0x7301200) := by decide +kernel

theorem test_el_forceclear :
    elink 0 (exec (.elForceclear 0) (with0 (bankOf "111111" 50 true 1 0x1600))) = some (0, false, 50, 0, 0x1600) := by decide +kernel

theorem test_el_isempty :
    answer (exec (.elIsempty 0) (fresh [])) = some (.returned .ok (.bit true)) ∧
      answer (exec (.elIsempty 0) (with0 (bankOf "1" 50 false 0 0))) = some (.returned .ok (.bit false)) := by decide +kernel

theorem test_el_read :
    answer (exec (.elRead 0) (with0 (bankOf "111" 50 true 1 0x1600))) = some (.returned .ok (.bank 2 1 true 50 3 0x1600)) := by
  decide +kernel

/-! ### One step each: the header rows (44_elink.md R131 - R137, 95_test_vectors.md 3.5) -/

/-- A synchronised bank that holds a whole header. -/
def synced : State := with0 (bankOf (sync49 ++ "0") 50 false 1 0x1555540F00113)

theorem test_sdh_heartbeat :
    elink 0 (exec (.sdhHeartbeat 0 ⟨0, 0, 0, 0, 0, 0, 0⟩) synced) = some (1, false, 50, 0, 0) := by decide +kernel
theorem test_sdh_data_truncated :
    elink 0 (exec (.sdhDataTruncated 0 ⟨0, 0, 2, 0xA, 0x1F, 0, 0⟩) synced) = some (1, true, 20, 0, 0x1FA00880) := by decide +kernel
theorem test_sdh_sync :
    elink 0 (exec (.sdhSync 0 ⟨0x13, 0, 0, 0xF, 0, 0xAAAAA, 0⟩) synced) = some (2, false, 50, 0, 0x1555540F00113) := by decide +kernel
theorem test_sdh_sync_mismatch :
    answer (exec (.sdhSync 0 ⟨0x13, 0, 0, 0xF, 0, 0xAAAAB, 0⟩) synced) = some (.fatal .syncPatternMismatch) ∧
      elink 0 (exec (.sdhSync 0 ⟨0x13, 0, 0, 0xF, 0, 0xAAAAB, 0⟩) synced) = some (1, false, 50, 50, 0x1555560F00113) := by
  decide +kernel
theorem test_sdh_data_truncated_trigger_too_early :
    elink 0 (exec (.sdhDataTruncatedTriggerTooEarly 0 ⟨0, 0, 1023, 0, 0, 0, 0⟩) synced) = some (1, true, 10230, 0, 0xFFD80) := by
  decide +kernel
theorem test_sdh_data :
    elink 0 (exec (.sdhData 0 ⟨0, 0, 4, 3, 7, 0, 0⟩) synced) = some (1, true, 40, 0, 0x7301200) ∧
      queue (exec (.sdhData 0 ⟨0, 0, 0, 1, 2, 0, 0⟩) synced) = some [⟨0x2100200, 0, []⟩] := by decide +kernel
theorem test_sdh_data_numwords :
    elink 0 (exec (.sdhDataNumwords 0 ⟨0, 0, 3, 0, 0, 0, 0⟩) synced) = some (1, false, 50, 0, 0xE80) := by decide +kernel
theorem test_sdh_data_trigger_too_early :
    elink 0 (exec (.sdhDataTriggerTooEarly 0 ⟨0, 0, 1, 0, 0, 0, 0⟩) synced) = some (1, true, 10, 0, 0x700) := by decide +kernel
theorem test_sdh_data_trigger_too_early_numwords :
    elink 0 (exec (.sdhDataTriggerTooEarlyNumwords 0 ⟨0, 0, 7, 2, 5, 0, 0⟩) synced) = some (1, true, 70, 0, 0x5201F80) := by
  decide +kernel
theorem test_sdh_hunt_match :
    elink 0 (exec (.sdhSyncPatternHuntMatch 0) (fresh [])) = some (1, false, 50, 0, 0x1555540F00113) := by decide +kernel

/-- V-EL-9's payload: two clusters, the trailing word ignored (44_elink.md R141). -/
theorem test_clusters :
    decodeClusters [2, 100, 1, 2, 0, 200, 9] = some [⟨100, [1, 2]⟩, ⟨200, []⟩] ∧ decodeClusters [5, 1] = none := by decide +kernel

/-! ### One step each: the pipeline, the configuration, the system (95_test_vectors.md 3.6, P4, P5) -/

/-- P4's frames, each at the front of the source, and the end of the source (V-SYS-5). -/
theorem test_pl_step :
    answer (exec .plStep (fresh (hdr 80))) = some (.returned .errEmptyEvent .nothing) ∧
      answer (exec .plStep (loaded ((pay 48).set 40 0))) = some (.returned .errInvalidSop .nothing) ∧
      five (exec .plStep (loaded ((pay 92).take 44 ++ List.replicate 16 0x11 ++ List.replicate 32 0))) =
        some ["01", "00", "01", "00", ""] ∧
      status (exec .plStep (fresh [])) = some ⟨none, true, .needEvent, 0, 0, 0, 0⟩ := by decide +kernel

/-- The event boundary force-clears, and does not where the parameter says so (P4). -/
theorem test_pl_step_boundary :
    elink 0 (exec .plStep { with0 (bankOf "01" 50 false 0 0) with rdPhase := .inEvent, gbtPos := 60, size := 92 }) =
        some (0, false, 50, 0, 0) ∧
      elink 0 (exec .plStep { with0 (bankOf "01" 50 false 0 0) with
          rdPhase := .inEvent, gbtPos := 60, size := 92,
          config := { Config.withDispatchBytes 1 with resyncAtEventBoundary := false } }) = some (0, false, 50, 2, 0) := by
  decide +kernel

theorem test_cfg_setmask :
    (match exec (.cfgSetmask 5) (fresh []) with
      | .next t => some (t.mask, t.result)
      | .fault _ => none
      | .refused _ => none) = some (5, .returned .ok .nothing) := by decide +kernel
theorem test_cfg_getmask : answer (exec .cfgGetmask { fresh [] with mask := 5 }) = some (.returned .ok (.mask 5)) := by decide +kernel
theorem test_sys_status :
    answer (exec .sysStatus (fresh [])) = some (.returned .ok (.sysStatus 0 false 0 0 0 0)) ∧
      answer (exec .sysStatus { fresh [] with fault := some .badMagic }) = some (.returned .ok (.sysStatus 0x10 false 0 0 0 0)) := by
  decide +kernel
theorem test_sys_reset :
    status (exec (.sysReset [1]) { loaded (pay 92) with fault := some .badMagic, halted := true, inPos := 9, gbtWords := 3 }) =
      some ⟨none, false, .needEvent, 0, 0, 0, 0⟩ := by decide +kernel

/-! ### The step -/

/-- V-SYS-2, V-SYS-3, V-SYS-6, V-SYS-7, V-BC-21: illegal commands, issued. -/
theorem test_step_illegal :
    [issuing (fresh []) 0 [], issuing (fresh []) 0x61 [.int 0x10000000000], issuing (fresh []) 0x50 [.int 40, .int 0, .int 0],
      issuing (fresh []) 0x51 [.int 0, .int 2], issuing (fresh []) 0x11 [.int 0, .int 0, .int 1]].all
      (fun s => decide (answer (step s) = some (.fatal .illegalCommand))) = true := by decide +kernel

/-- P5 step 2: a faulted block refuses a command, an illegal one too. -/
theorem test_step_refused :
    answer (step (issuing { fresh [] with fault := some .badMagic } 0x60 [])) = some (.returned .refused .nothing) ∧
      answer (step (issuing { fresh [] with fault := some .badMagic } 0 [])) = some (.returned .refused .nothing) := by decide +kernel

/-- A table word placed is the next thing the step runs: a command, a header word, the HUNT match. -/
theorem test_step_fetches :
    answer (step ((fresh []).withFetchWord 8 0x63)) = some (.returned .ok (.sysStatus 0 false 0 0 0 0)) ∧
      elink 0 (step ((fresh []).withFetchWord 16 0x280)) = some (1, false, 50, 0, 0x280) ∧
      elink 0 (step ((fresh []).withFetchWord 56 0x1555540F00113)) = some (1, false, 50, 0, 0x1555540F00113) := by decide +kernel

/-- A drain hands over the head packet. -/
theorem test_step_drain :
    (match step { fresh [] with out := [⟨1, 0, []⟩, ⟨2, 0, []⟩], pending := [.drain] } with
      | .next t => some (t.out, t.drained)
      | .fault _ => none
      | .refused _ => none) = some ([⟨2, 0, []⟩], [⟨1, 0, []⟩]) := by decide +kernel

/-! ### Witnesses: for each obligation with hypotheses, states and operands that meet them -/

/-- An outcome's next state meets a test. -/
def nextMeets (o : Out) (p : State → Bool) : Bool :=
  match o with
  | .next t => p t
  | .fault _ => false
  | .refused _ => false

theorem next_of_meets {o : Out} {p : State → Bool} (h : nextMeets o p = true) : ∃ t, o = .next t ∧ p t = true := by
  cases o with
  | next t => exact ⟨t, rfl, h⟩
  | fault f => exact absurd h (by simp [nextMeets])
  | refused r => exact absurd h (by simp [nextMeets])

/-- A bank fed one bit that its container has room for. -/
theorem fed_of_room {b : Elink} (w : b.bits.WF) (h : b.bits.len + 1 ≤ b.bits.cap) (v : Bool) :
    Fed b v 0 { b with bits := b.bits.set b.bits.len v } := by
  refine ⟨_, ⟨Container.set_WF w v h, ?_, ?_, fun n => ?_⟩, rfl⟩
  · simp
  · simp
  · rw [Container.set_bit]
    by_cases hn : n = b.bits.len
    · simp [hn]
    · by_cases hlt : n < b.bits.len
      · simp [hn, old, hlt]
      · simp [hn, old, hlt, w.bit_of_len_le (by omega : b.bits.len ≤ n)]

theorem witness_encodeInvertsDecode :
    decode (.command ⟨0x50, [.int 39, .int 1, .int 0]⟩) = .ok (.elAppend 39 true false) ∧
      decode (.header 39 0x3FFFFFFFFFFFF) = .ok (.sdhDataTriggerTooEarlyNumwords 39 ⟨63, 1, 1023, 15, 31, 0xFFFFF, 1⟩) ∧
      decode (.hunt 0 syncPattern) = .ok (.sdhSyncPatternHuntMatch 0) := by decide +kernel

/-- Legal and illegal commands on both sides of each bound of R80. -/
theorem witness_illegalCommandsRaise :
    (fresh []).fault = none ∧ (issuing (fresh []) 0x50 [.int 39, .int 1, .int 0]).pending = .issue ⟨0x50, [.int 39, .int 1, .int 0]⟩ :: [] ∧
      Legal 4 ⟨0x50, [.int 39, .int 1, .int 0]⟩ ∧ ¬ Legal 4 ⟨0x50, [.int 40, .int 1, .int 0]⟩ ∧ ¬ Legal 4 ⟨0x50, [.int 39, .int 2, .int 0]⟩ ∧
      Legal 4 ⟨0x13, [.int 67]⟩ ∧ ¬ Legal 4 ⟨0x13, [.int 68]⟩ ∧ ¬ Legal 4 ⟨0x13, [.int 63]⟩ ∧
      Legal 4 ⟨0x22, [.int 39]⟩ ∧ ¬ Legal 4 ⟨0x22, [.int 40]⟩ ∧ Legal 4 ⟨0x61, [.int 0xFFFFFFFFFF]⟩ ∧
      ¬ Legal 4 ⟨0x61, [.int 0x10000000000]⟩ ∧ ¬ Legal 4 ⟨0x00, []⟩ ∧ ¬ Legal 4 ⟨0x60, [.int 0]⟩ := by
  refine ⟨rfl, rfl, ?_, ?_, ?_, ?_, ?_, ?_, ?_, ?_, ?_, ?_, ?_, ?_⟩ <;> simp [Legal, operandKinds, Kind.Admits]

theorem witness_handlesNameContainers :
    (fresh []).scratch.length = (fresh []).config.numScratch ∧ (39#8).toNat = (39 : ElinkId).val ∧
      ScratchAt (fresh []) 64 0 ⟨0, 64, []⟩ ∧ ScratchAt (fresh []) 67 3 ⟨0, 64, []⟩ ∧
      NoRead (fresh []) 40 ∧ NoRead (fresh []) 63 ∧ NoRead (fresh []) 68 ∧ NoWrite (fresh []) 0 ∧ NoWrite (fresh []) 63 ∧
      NoWrite (fresh []) 68 ∧ (fresh []).fault = none ∧
      (Instr.bcEqual 64 68).wellFormed (fresh []).config = false := by decide +kernel

theorem witness_stepRunsIssuedCommand :
    (issuing (fresh []) 0x60 []).pending = .issue ⟨0x60, []⟩ :: [] ∧ decode (.command ⟨0x60, []⟩) = .ok .plStep := by decide +kernel

theorem witness_hostDrainsHeadOrWaits :
    (fresh []).pending = [] ∧ { fresh [] with pending := [.drain] }.pending = .drain :: [] ∧ (fresh []).out = [] ∧
      { fresh [] with out := [⟨1, 0, []⟩] }.out = ⟨1, 0, []⟩ :: [] := by decide +kernel

/-- A faulted block, with a refused command, an illegal one, and a drain before it. -/
theorem witness_faultedBlockRefuses :
    { fresh [] with fault := some .badMagic }.fault = some .badMagic ∧ Instr.plStep ≠ .sysStatus ∧
      (∀ src, Instr.plStep ≠ .sysReset src) ∧ (0x00 : BitVec 8) ≠ 0x63 ∧ (0x62 : BitVec 8) ≠ 0x63 ∧ (0x62 : BitVec 8) ≠ 0x7F ∧
      (issuing { fresh [] with fault := some .badMagic } 0x62 []).pending = .issue ⟨0x62, []⟩ :: [] ∧
      { fresh [] with fault := some .badMagic, pending := [.drain], out := [⟨1, 0, []⟩] }.out = ⟨1, 0, []⟩ :: [] := by
  refine ⟨rfl, by simp, by simp, by decide, by decide, by decide, rfl, rfl⟩

/-- A faulted block that stays faulted, and one that `SYS.RESET` clears. -/
theorem witness_fatalIsSticky :
    nextMeets (step (issuing { fresh [] with fault := some .badMagic } 0x60 [])) (fun t => decide (t.fault = some .badMagic)) = true ∧
      nextMeets (step (issuing { fresh [] with fault := some .badMagic } 0x7F [.bytes []])) (fun t => decide (t.fault = none)) = true := by
  decide +kernel

theorem witness_sysStatusReadsBlock :
    (fresh []).fault = none ∧ { fresh [] with fault := some .payloadOverrun }.fault = some .payloadOverrun ∧
      (fresh []).rdPhase = .needEvent ∧ (loaded []).rdPhase = .loaded ∧ { fresh [] with rdPhase := .inEvent }.rdPhase = .inEvent := by
  decide +kernel

/-- The parameters at the ends of the range of `N_DISPATCH_BYTES`. -/
theorem witness_resetIsSound : (Config.withDispatchBytes 1).Valid ∧ (Config.withDispatchBytes 10).Valid := by decide +kernel

theorem fresh_elink (src : List Byte) (e : ElinkId) : (fresh src).elink e = Elink.reset 100000 := by
  simp [fresh, State.elink, State.resetWith, cfg, Config.withDispatchBytes]

theorem reset_sound (f : Prop) : (Elink.reset 100000).Sound f := by
  refine ⟨by decide +kernel, by decide +kernel, by decide +kernel, fun _ => by decide +kernel, by decide +kernel, by decide +kernel,
    by decide +kernel, by decide +kernel, by decide +kernel⟩

/-- A state with the invariant whose step answers: the reset state about to run `PL.STEP`. -/
theorem witness_stepKeepsInvariant :
    (issuing (fresh (hdr 80)) 0x60 []).Inv ∧ ∃ t, step (issuing (fresh (hdr 80)) 0x60 []) = .next t ∧ t.eventsRead = 1 := by
  refine ⟨⟨by decide +kernel, ⟨by decide +kernel, by decide +kernel, by decide +kernel, by decide +kernel, by decide +kernel,
    by decide +kernel, by decide +kernel, by decide +kernel⟩, fun e => ?_, by decide +kernel, by decide +kernel, by decide +kernel⟩, ?_⟩
  · have h : (issuing (fresh (hdr 80)) 0x60 []).elink e = Elink.reset 100000 := fresh_elink (hdr 80) e
    rw [h]
    exact reset_sound _
  · obtain ⟨t, h1, h2⟩ := next_of_meets (o := step (issuing (fresh (hdr 80)) 0x60 [])) (p := fun t => decide (t.eventsRead = 1))
      (by decide +kernel)
    exact ⟨t, h1, of_decide_eq_true h2⟩

/-- A command that emits a packet. -/
theorem witness_outputGrowsAtTail :
    (∀ src, Instr.sdhData 0 ⟨0, 0, 0, 1, 2, 0, 0⟩ ≠ .sysReset src) ∧
      nextMeets (exec (.sdhData 0 ⟨0, 0, 0, 1, 2, 0, 0⟩) synced) (fun t => decide (t.out.length = 1)) = true :=
  ⟨by simp, by decide +kernel⟩

/-- Growth at the limit: 24 doublings of 64 are allowed, 25 are not (V-BC-5, V-BC-6). -/
theorem witness_growth :
    1 ≤ (64 : Nat) ∧ Doublings 64 64 0 ∧ MayGrow (fresh []) 64 0 ∧ Doublings 64 65 1 ∧ MayGrow (fresh []) 64 1 ∧
      Doublings 64 1073741824 24 ∧ MayGrow (fresh []) 64 24 ∧ Doublings 64 1073741825 25 ∧ ¬ MayGrow (fresh []) 64 25 := by
  decide +kernel

/-- The handles of the `BC.*` statements: refused ones on both sides of the scratch range, an elink's and a scratch one. -/
theorem witness_bcHandles :
    (scr ["0110"]).fault = none ∧ NoRead (scr ["0110"]) 40 ∧ NoRead (scr ["0110"]) 63 ∧ NoRead (scr ["0110"]) 68 ∧
      NoWrite (scr ["0110"]) 0 ∧ NoWrite (scr ["0110"]) 63 ∧ NoWrite (scr ["0110"]) 68 ∧
      ScratchAt (scr ["0110"]) 64 0 ⟨4, 64, [1, 2]⟩ ∧ (⟨4, 64, [1, 2]⟩ : Container).WF ∧ ReadsAs (scr ["0110"]) 64 ⟨4, 64, [1, 2]⟩ ∧
      ReadsAs (scr ["0110"]) 0 ⟨0, 100000, []⟩ := by decide +kernel

/-- `BC.GET`, `BC.SET`, `BC.APPEND`, `BC.CLEAR`: indices at the ends (the container of `witness_bcHandles` has length 4). -/
theorem witness_bcGet_bcSet :
    ((-1 : Int) < 0 ∨ (4 : Int) ≤ -1) ∧ ((4 : Int) < 0 ∨ (4 : Int) ≤ 4) ∧ (0 : Int) ≤ 3 ∧ (3 : Int) < 4 ∧ (0 : Int) ≤ 63 ∧
      Doublings 64 ((63 : Int).toNat + 1) 0 ∧ Doublings 64 ((64 : Int).toNat + 1) 1 ∧ Doublings 64 (4 + 1) 0 := by decide +kernel

/-- `BC.SETR8` and `BC.UINT8` on both sides of each bound; the wider ones alike. -/
theorem witness_bcSetr_bcUint :
    ((-1 : Int) < 0 ∨ (3 : Int) < -1) ∧ ((2 : Int) < 0 ∨ (1 : Int) < 2) ∧ (8 : Int) ≤ 8 - 0 ∧ (7 : Int) - 0 < 8 ∧
      (64 : Int) ≤ 64 - 0 ∧ (63 : Int) - 0 < 64 ∧ (3 : Int) = (if (-1 : Int) < 0 then (4 : Int) - 1 else -1) ∧
      ((0 : Int) < 0 ∨ (4 : Int) < 0 ∨ (4 : Int) ≤ 4) ∧ (3 : Int) < 4 ∧ Doublings 64 ((7 : Int).toNat + 1) 0 ∧
      ReadsAs (scr ["1100001110100101"]) 64 ⟨16, 64, [0, 1, 6, 7, 8, 10, 13, 15]⟩ := by decide +kernel

/-- `BC.SETBYTES`, `BC.FROMSTR`, `BC.FROMU<W>`: needs within the capacity and beyond it, good and bad characters. -/
theorem witness_bcReplace :
    Doublings 64 (8 * [0xB4#8, 0x01#8].length) 0 ∧ Doublings 64 (8 * (List.replicate 9 0xB4#8).length) 1 ∧
      (∃ ch ∈ ['0', '1', 'x'], ch ≠ '0' ∧ ch ≠ '1') ∧ (∀ ch ∈ ['0', '0', '1', '1'], ch = '0' ∨ ch = '1') ∧
      Doublings 64 ['0', '0', '1', '1'].length 0 ∧ Doublings 64 8 0 ∧ Doublings 64 64 0 := by
  refine ⟨by decide +kernel, by decide +kernel, ⟨'x', by simp, by decide, by decide⟩, by simp, by decide +kernel, by decide +kernel,
    by decide +kernel⟩

/-- `BC.SEARCH`: an empty pattern, a first occurrence at 4, none; `BC.EQUAL`: equal and not. -/
theorem witness_bcSearch_bcEqual :
    ReadsAs (scr ["0010110", "11"]) 64 ⟨7, 64, [2, 4, 5]⟩ ∧ ReadsAs (scr ["0010110", "11"]) 65 ⟨2, 64, [0, 1]⟩ ∧
      ReadsAs (scr ["0010110", "11"]) 66 ⟨0, 64, []⟩ ∧ 4 + 2 ≤ 7 ∧
      (∀ k < 2, (⟨7, 64, [2, 4, 5]⟩ : Container).bit (4 + k) = (⟨2, 64, [0, 1]⟩ : Container).bit k) ∧
      (∀ i' < 4, ∃ k < 2, (⟨7, 64, [2, 4, 5]⟩ : Container).bit (i' + k) ≠ (⟨2, 64, [0, 1]⟩ : Container).bit k) ∧
      (∀ i, i + 5 ≤ 4 → ∃ k < 5, (⟨4, 64, [1, 3]⟩ : Container).bit (i + k) ≠ (⟨5, 64, [1, 3]⟩ : Container).bit k) ∧
      ReadsAs (scr ["0101", "01010"]) 64 ⟨4, 64, [1, 3]⟩ ∧ ReadsAs (scr ["0101", "01010"]) 65 ⟨5, 64, [1, 3]⟩ ∧
      ((4 : Nat) = 4 ∧ ∀ k < 4, (⟨4, 64, [1, 3]⟩ : Container).bit k = (⟨4, 128, [1, 3]⟩ : Container).bit k) ∧
      ¬ ((4 : Nat) = 5 ∧ ∀ k < 4, (⟨4, 64, [1, 3]⟩ : Container).bit k = (⟨5, 64, [1, 3]⟩ : Container).bit k) := by
  refine ⟨?_, ?_, ?_, ?_, ?_, ?_, fun i h => absurd h (by omega), ?_, ?_, ?_, ?_⟩ <;> decide +kernel

/-- `BC.LAST` and `BC.PRUNE`: counts at the ends, onto the source itself and onto another container. -/
theorem witness_bcLast_bcPrune :
    ReadsAs (scr ["0110"]) 64 ⟨4, 64, [1, 2]⟩ ∧ ScratchAt (scr ["0110"]) 64 0 ⟨4, 64, [1, 2]⟩ ∧ ScratchAt (scr ["0110"]) 65 1 ⟨0, 64, []⟩ ∧
      ReadsAs (scr ["0110"]) 0 ⟨0, 100000, []⟩ ∧ ((-1 : Int) < 0 ∨ (4 : Int) < -1) ∧ ((5 : Int) < 0 ∨ (4 : Int) < 5) ∧ (0 : Int) ≤ 4 ∧
      (4 : Int) ≤ 4 ∧ Doublings 64 (4 : Int).toNat 0 ∧ Doublings 64 (0 : Int).toNat 0 := by decide +kernel

/-- `ContainerLaws`: each first command ends without a fault, and a range read that answers. -/
theorem witness_containerLaws :
    nextMeets (exec (.bcSet 64 5 true) (fresh [])) (fun t => decide (t.fault = none)) = true ∧
      nextMeets (exec (.bcFromu8 64 0x9) (fresh [])) (fun t => decide (t.fault = none)) = true ∧
      nextMeets (exec (.bcFromu16 64 0xA5C3) (fresh [])) (fun t => decide (t.fault = none)) = true ∧
      nextMeets (exec (.bcFromu32 64 1) (fresh [])) (fun t => decide (t.fault = none)) = true ∧
      nextMeets (exec (.bcFromu64 64 1) (fresh [])) (fun t => decide (t.fault = none)) = true ∧
      nextMeets (exec (.bcFromstr 64 "01".toList) (fresh [])) (fun t => decide (t.fault = none)) = true ∧
      nextMeets (exec (.bcUint8 64 1 3) (scr ["01011"])) (fun t => decide (t = { scr ["01011"] with result := .returned .ok (.u8 5) })) = true ∧
      nextMeets (exec (.bcUint16 64 1 3) (scr ["01011"])) (fun t => decide (t = { scr ["01011"] with result := .returned .ok (.u16 5) })) = true ∧
      nextMeets (exec (.bcUint32 64 1 3) (scr ["01011"])) (fun t => decide (t = { scr ["01011"] with result := .returned .ok (.u32 5) })) = true ∧
      nextMeets (exec (.bcUint64 64 1 3) (scr ["01011"])) (fun t => decide (t = { scr ["01011"] with result := .returned .ok (.u64 5) })) = true := by
  decide +kernel

theorem witness_failedContainerCommandsWriteNothing :
    isContainerCommand (.bcGet 64 2) = true ∧ (scr ["01"]).fault = none ∧
      nextMeets (exec (.bcGet 64 2) (scr ["01"])) (fun t => decide (t.fault = some .containerRange)) = true := by decide +kernel

/-- `RD.NEXTEVENT`'s clauses: no byte, 1 and 79 bytes, and a whole header before the rest of the source. -/
theorem witness_nextEvent_source :
    (fresh []).fault = none ∧ (fresh []).payload.wf ∧ { fresh [] with rdEof := true }.rdEof = true ∧ (fresh []).rdEof = false ∧
      ahead (fresh []) = [] ∧ (ahead (fresh [0])).length = 1 ∧ (ahead (fresh ((hdr 80).take 79))).length = 79 ∧
      ahead (fresh (hdr 84 ++ [4, 0, 0, 0])) = (headerRegister (hdr 84)).toList ++ [4, 0, 0, 0] := by decide +kernel

/-- `RD.NEXTEVENT`'s clauses: magics, event sizes 79, 80, 81 and around the limit, a short payload, payloads of 3 and 4 bytes with
a good and a bad equipment size. -/
theorem witness_nextEvent_fields :
    le32 (hdrM 80 0xDEADBEEF) 4 ≠ 0xDA1E5AFE ∧ le32 (hdr 80) 4 = 0xDA1E5AFE ∧ le32 (hdr 79) 0 < 80 ∧ le32 (hdr 80) 0 = 80 ∧
      80 < le32 (hdr 81) 0 ∧ le32 (hdr 0xFFFFFFFF) 0 ≤ 80 + (fresh []).config.maxPayloadBytes ∧
      80 + { cfg with maxPayloadBytes := 3 }.maxPayloadBytes < le32 (hdr 84) 0 ∧ 80 < le32 (hdr 84) 0 ∧
      80 + [4, 0, 0].length < le32 (hdr 84) 0 ∧ 80 + [4#8, 0, 0, 0].length = le32 (hdr 84) 0 ∧ 80 + [3#8, 0, 0].length = le32 (hdr 83) 0 ∧
      [3#8, 0, 0].length < 4 ∧ le32 [5#8, 0, 0, 0] 0 ≠ 4 ∧ 4 ≤ [4#8, 0, 0, 0].length ∧ le32 [4#8, 0, 0, 0] 0 = 4 := by decide +kernel

/-- `RD.NEXTGBT`'s clauses: a frame read, an end of source, a fault; each phase; a good and a bad SOP; 47 and 48 bytes ahead. -/
theorem witness_nextGbtWalksEvent :
    nextMeets (exec .rdNextevent (fresh (hdr 80))) (fun t => decide (t.fault = none ∧ t.rdPhase = .loaded)) = true ∧
      nextMeets (exec .rdNextevent (fresh [])) (fun t => decide (t.result = .returned .eof .nothing)) = true ∧
      nextMeets (exec .rdNextevent (fresh [0])) (fun t => decide (t.fault ≠ none)) = true ∧
      (loaded []).rdEof = false ∧ (loaded []).rdPhase = .loaded ∧ (loaded []).size = 0 ∧ 0 < (loaded (pay 43)).size ∧
      ¬ SopStands (loaded (pay 43)) ∧ SopStands (loaded (pay 44)) ∧ ¬ SopStands (loaded ((pay 44).set 40 0)) ∧
      44 + 16 + 32 ≤ (loaded (pay 92)).size ∧ (loaded (pay 91)).size < 44 + 16 + 32 := by decide +kernel

/-- `EventYieldsItsWords`: events of no window and of one. -/
theorem witness_eventYieldsItsWords :
    (loaded (pay 92)).fault = none ∧ (loaded (pay 92)).rdEof = false ∧ (loaded (pay 92)).rdPhase = .loaded ∧ SopStands (loaded (pay 92)) ∧
      windowCount (loaded (pay 92)).size = 1 ∧ SopStands (loaded (pay 91)) ∧ windowCount (loaded (pay 91)).size = 0 := by decide +kernel

/-- `DspWordIsAppends`: a word of ten bytes and one of nine; a word none of whose pairs faults, and one whose pair does. -/
theorem witness_dspWordIsAppends :
    (fresh []).fault = none ∧ (fresh []).config.nDispatchBytes ≤ 10 ∧ (List.replicate 10 0#8).length = 10 ∧
      (List.replicate 9 0#8).length ≠ 10 ∧ (feed (wordAppends (fresh []) (List.replicate 10 0)) (fresh [])).2.fault = none ∧
      (feed (wordAppends (with0 (bankOf "1010000000100000000" 20 true 1 0xA00)) (List.replicate 10 0))
        (with0 (bankOf "1010000000100000000" 20 true 1 0xA00))).2.fault ≠ none := by decide +kernel

/-- `DspWordDeliversPairs`: the reset state has room everywhere; elink 3 is served, elink 4 is not, elink 1 is masked. -/
theorem witness_dspWordDeliversPairs :
    (∀ e, Receives { fresh [] with mask := 2 } e → HasRoom { fresh [] with mask := 2 } e) ∧ Receives { fresh [] with mask := 2 } 3 ∧
      ¬ Receives { fresh [] with mask := 2 } 4 ∧ ¬ Receives { fresh [] with mask := 2 } 1 := by
  refine ⟨fun e _ => ?_, by decide +kernel, by decide +kernel, by decide +kernel⟩
  have h : ({ fresh [] with mask := 2 } : State).elink e = Elink.reset 100000 := fresh_elink [] e
  unfold HasRoom
  rw [h]
  decide +kernel

/-- A word and a `PL.STEP` that pass a masked and an unserved elink by. -/
theorem witness_skippedElinksKeepBanks :
    nextMeets (exec (.dspWord (List.replicate 10 0xFF)) { fresh [] with mask := 2 }) (fun t => decide (t.fault = none)) = true ∧
      nextMeets (exec .plStep (loaded (pay 92))) (fun t => decide (t.result ≠ .returned .errEndOfEvent .nothing)) = true := by
  decide +kernel

/-- The empty bank: room for a bit and for a pair; a bank one bit short of the limit whose growth is refused. -/
theorem witness_elPushStoresBit :
    (fresh []).fault = none ∧ ((fresh []).elink 0).bits.WF ∧
      Doublings ((fresh []).elink 0).bits.cap (((fresh []).elink 0).bits.len + 1) 0 ∧ MayGrow (fresh []) ((fresh []).elink 0).bits.cap 0 ∧
      ((fresh []).elink 0).bits.len + 1 ≠ ((fresh []).elink 0).checkpoint ∧ HasRoom (fresh []) 0 ∧
      ((with0 (bankOf sync49 50 true 0 0)).elink 0).bits.len + 1 = ((with0 (bankOf sync49 50 true 0 0)).elink 0).checkpoint ∧
      Doublings 1 2 1 ∧ ¬ MayGrow { fresh [] with config := { cfg with maxCapacityBits := 1 } } 1 1 := by decide +kernel

/-- `ElAppendIsTwoPushes`: a first push that faults, one that returns a packet, one that returns none. -/
theorem witness_elAppendIsTwoPushes :
    nextMeets (exec (.elPush 0 false) (with0 (bankOf "1010000000100000000" 20 true 1 0xA00))) (fun t => decide (t.fault ≠ none)) = true ∧
      nextMeets (exec (.elPush 0 false) (with0 (bankOf "100000000001010100000010111110000000000" 40 true 1 0x7301200)))
        (fun t => decide (t.fault = none ∧ t.result = .returned .ok (.packet (some ⟨0x7301200, 0, [⟨42, [500]⟩]⟩)))) = true ∧
      nextMeets (exec (.elPush 0 true) (fresh [])) (fun t => decide (t.fault = none ∧ t.result = .returned .ok (.packet none))) = true := by
  decide +kernel

/-- HUNT: 49 bits of the pattern, and the 50th that completes it or does not. -/
theorem witness_huntSlidesOrAcquires :
    let s := with0 (bankOf sync49 50 false 0 0)
    s.fault = none ∧ (s.elink 0).bits.WF ∧ (s.elink 0).indata = false ∧ (s.elink 0).nsync = 0 ∧
      (s.elink 0).bits.len + 1 = (s.elink 0).checkpoint ∧ 50 ≤ (s.elink 0).checkpoint ∧ CanTake s 0 0 ∧
      (∃ b', Fed (s.elink 0) false 0 b' ∧ ∀ n < 50, b'.bits.bit ((s.elink 0).checkpoint - 50 + n) = syncPattern.getLsbD n) ∧
      ∃ b', Fed (s.elink 0) true 0 b' ∧ ¬ ∀ n < 50, b'.bits.bit ((s.elink 0).checkpoint - 50 + n) = syncPattern.getLsbD n := by
  intro s
  refine ⟨rfl, by decide +kernel, by decide +kernel, by decide +kernel, by decide +kernel, by decide +kernel, by decide +kernel,
    ⟨_, fed_of_room (by decide +kernel) (by decide +kernel) _, by decide +kernel⟩,
    ⟨_, fed_of_room (by decide +kernel) (by decide +kernel) _, by decide +kernel⟩⟩

/-- HEADER: 49 bits of a header, and its last. -/
theorem witness_headerBitRunsItsRow :
    let s := with0 (bankOf sync49 50 false 1 0)
    s.fault = none ∧ (s.elink 0).bits.WF ∧ (s.elink 0).indata = false ∧ 1 ≤ (s.elink 0).nsync ∧ (s.elink 0).bits.len = 49 ∧
      (s.elink 0).checkpoint = 50 ∧ CanTake s 0 0 ∧
      ∃ b', Fed (s.elink 0) false 0 b' ∧ ∀ n < 50, syncPattern.getLsbD n = b'.bits.bit n := by
  intro s
  exact ⟨rfl, by decide +kernel, by decide +kernel, by decide +kernel, by decide +kernel, by decide +kernel, by decide +kernel,
    ⟨_, fed_of_room (by decide +kernel) (by decide +kernel) _, by decide +kernel⟩⟩

/-- The header rows: each PKT, `numWords` 0, 1 and 1023; the sync pattern and a PKT 2 word one bit off. -/
theorem witness_headerRows :
    Sdh.pkt 0x0 = 0 ∧ Sdh.pkt 0xFFC80 = 1 ∧ (Sdh.numWords 0xFFC80).toNat = 1023 ∧ Sdh.pkt 0x80 = 1 ∧ (Sdh.numWords 0x80).toNat = 0 ∧
      Sdh.pkt syncPattern = 2 ∧ Sdh.pkt 0x1555560F00113 = 2 ∧ (0x1555560F00113 : Sdh) ≠ syncPattern ∧ Sdh.pkt 0x580 = 3 ∧
      (Sdh.numWords 0x580).toNat = 1 ∧ Sdh.pkt 0x180 = 3 ∧ Sdh.pkt 0x600 = 4 ∧ Sdh.pkt 0x200 = 4 ∧ Sdh.pkt 0xE80 = 5 ∧
      Sdh.pkt 0x700 = 6 ∧ Sdh.pkt 0x300 = 6 ∧ Sdh.pkt 0x780 = 7 ∧ Sdh.pkt 0x380 = 7 := by decide +kernel

/-- Elink 0 one bit before the end of V-EL-4's payload. -/
def beforePacket : State := with0 (bankOf "100000000001010100000010111110000000000" 40 true 1 0x7301200)

/-- Elink 0 one bit before the end of V-EL-7's payload. -/
def beforeOverrun : State := with0 (bankOf "1010000000100000000" 20 true 1 0xA00)

/-- DATA: the last payload bit of V-EL-4; the words spell a cluster and one word over. -/
theorem witness_dataBitCompletesPacket :
    beforePacket.fault = none ∧ (beforePacket.elink 0).bits.WF ∧ (beforePacket.elink 0).indata = true ∧
      1 ≤ (beforePacket.elink 0).nsync ∧ (beforePacket.elink 0).bits.len + 1 = (beforePacket.elink 0).checkpoint ∧
      CanTake beforePacket 0 0 ∧
      (∃ b', Fed (beforePacket.elink 0) false 0 b' ∧ Splits b'.bits [1, 42, 500, 0]) ∧ Spells [1, 42, 500, 0] [⟨42, [500]⟩] :=
  ⟨rfl, by decide +kernel, by decide +kernel, by decide +kernel, by decide +kernel, by decide +kernel,
    ⟨_, fed_of_room (by decide +kernel) (by decide +kernel) _, by decide +kernel, by decide +kernel⟩,
    by decide +kernel, [0], by decide +kernel, by decide +kernel⟩

/-- DATA: the last payload bit of V-EL-7; the words overrun. -/
theorem witness_dataBitOverruns :
    beforeOverrun.fault = none ∧ (beforeOverrun.elink 0).bits.WF ∧ (beforeOverrun.elink 0).indata = true ∧
      1 ≤ (beforeOverrun.elink 0).nsync ∧ (beforeOverrun.elink 0).bits.len + 1 = (beforeOverrun.elink 0).checkpoint ∧
      CanTake beforeOverrun 0 0 ∧ (∃ b', Fed (beforeOverrun.elink 0) false 0 b' ∧ Splits b'.bits [5, 1]) ∧ Overruns [5, 1] :=
  ⟨rfl, by decide +kernel, by decide +kernel, by decide +kernel, by decide +kernel, by decide +kernel,
    ⟨_, fed_of_room (by decide +kernel) (by decide +kernel) _, by decide +kernel, by decide +kernel⟩,
    [], 5, 1, [], by decide +kernel, by decide +kernel, by decide +kernel⟩

/-- The block without a fault, all that `ClearallForceClearsEvery`, `ForceclearReturnsToHunt` and `MaskIsWrittenAndRead` suppose, and,
with the handles of `witness_bcHandles`, `BcReadOuts`. -/
theorem witness_unfaulted : (fresh []).fault = none ∧ (scr ["0110"]).fault = none := by decide +kernel

theorem witness_elReadsBank :
    ((with0 (bankOf "1" 50 false 0 0)).elink 0).nsync = 0 ∧ 1 ≤ ((with0 (bankOf "1" 50 false 1 0)).elink 0).nsync ∧
      ((with0 (bankOf "1" 50 true 1 0)).elink 0).indata = true ∧ (with0 (bankOf "1" 50 true 1 0)).fault = none := by decide +kernel

/-- Two states that differ in another elink and in the output queue, and agree on elink 0. -/
theorem witness_elinksShareNothing :
    Feeds 0 (.elPush 0 true) ∧ Feeds 0 (.sdhData 0 ⟨0, 0, 0, 1, 2, 0, 0⟩) ∧
      nextMeets (exec (.elPush 0 true) (fresh [])) (fun t => decide (t.fault = none)) = true ∧
      nextMeets (exec (.elPush 0 true) { fresh [] with out := [⟨1, 1, []⟩], elinks := (fresh []).elinks.set 1 (bankOf "1" 50 false 0 0) })
        (fun t => decide (t.fault = none)) = true ∧
      (fresh []).elink 0 =
        ({ fresh [] with out := [⟨1, 1, []⟩], elinks := (fresh []).elinks.set 1 (bankOf "1" 50 false 0 0) } : State).elink 0 :=
  ⟨.inl ⟨true, rfl⟩, .inr (.inr (.inr (.inl ⟨0x2100200, by decide +kernel⟩))), by decide +kernel, by decide +kernel,
    by decide +kernel⟩

/-- `PL.STEP`'s clauses: each answer of the extractor. -/
theorem witness_plStepFollowsExtractor :
    (fresh []).fault = none ∧ (fresh []).halted = false ∧ { fresh [] with halted := true }.halted = true ∧
      nextMeets (exec .rdNextgbt (fresh [0])) (fun t => decide (t.fault ≠ none)) = true ∧
      nextMeets (exec .rdNextgbt (loaded (pay 92)))
        (fun t => decide (t.result = .returned .ok (.gbt [0, 0, 0, 0, 0, 0, 0, 0, 0, 0]))) = true ∧
      nextMeets (exec .rdNextgbt (loaded [])) (fun t => decide (t.result = .returned .errEmptyEvent .nothing)) = true ∧
      nextMeets (exec .rdNextgbt (loaded (pay 43))) (fun t => decide (t.result = .returned .errInvalidSop .nothing)) = true ∧
      nextMeets (exec .rdNextgbt (loaded (pay 44))) (fun t => decide (t.result = .returned .errEndOfEvent .nothing)) = true ∧
      nextMeets (exec .rdNextgbt (fresh [])) (fun t => decide (t.result = .returned .eof .nothing)) = true ∧
      (fresh []).config.resyncAtEventBoundary = true ∧ { cfg with resyncAtEventBoundary := false }.resyncAtEventBoundary = false := by
  decide +kernel

/-- `PlStepDeliversWindow`: the last window of an event, in the reset elinks. -/
theorem witness_plStepDeliversWindow :
    let s := { loaded (pay 92) with rdPhase := .inEvent, gbtPos := 44 }
    s.fault = none ∧ s.halted = false ∧ s.rdEof = false ∧ s.rdPhase = .inEvent ∧ s.gbtPos + 16 + 32 ≤ s.size ∧
      s.config.nDispatchBytes ≤ 10 ∧ (∀ e, Receives s e → HasRoom s e) ∧ Receives s 0 := by
  intro s
  refine ⟨rfl, rfl, rfl, rfl, by decide +kernel, by decide +kernel, fun e _ => ?_, by decide +kernel⟩
  have h : s.elink e = Elink.reset 100000 := fresh_elink [] e
  unfold HasRoom
  rw [h]
  decide +kernel

end Sys2Proof.Tests
end

section
/-! SUPPORT. What no command but `SYS.RESET` touches: the parameters (10_state.md R26), the byte source (R27), the host's coming
actions and the packets it has taken (45_pipeline.md R154); and that the output queue only grows at its tail (10_state.md R44).
Said once, as a relation between the state a body starts from and the one it ends in. -/

namespace Sys2Proof.Machine

/-! ### The relation -/

/-- `t` has the parameters, the byte source, the coming actions and the drained packets of `s`, and its output queue is that of
`s` with packets appended. -/
def State.Extends (s t : State) : Prop :=
  t.config = s.config ∧ t.src = s.src ∧ t.pending = s.pending ∧ t.drained = s.drained ∧ s.out <+: t.out

@[simp] theorem State.Extends.refl (s : State) : s.Extends s := ⟨rfl, rfl, rfl, rfl, List.prefix_rfl⟩

theorem State.Extends.trans {s t u : State} (h : s.Extends t) (h' : t.Extends u) : s.Extends u := by
  obtain ⟨hc, hs, hp, hd, ho⟩ := h
  obtain ⟨hc', hs', hp', hd', ho'⟩ := h'
  exact ⟨hc'.trans hc, hs'.trans hs, hp'.trans hp, hd'.trans hd, ho.trans ho'⟩

theorem State.Extends.config {s t : State} (h : s.Extends t) : t.config = s.config := h.1

section
variable (s u : State)

@[simp] theorem State.extends_withResult (r : Answer) : s.Extends (u.withResult r) ↔ s.Extends u := Iff.rfl
@[simp] theorem State.extends_withFault (c : FatalCode) : s.Extends (u.withFault c) ↔ s.Extends u := Iff.rfl
@[simp] theorem State.extends_halt : s.Extends u.halt ↔ s.Extends u := Iff.rfl
@[simp] theorem State.extends_withMask (m : BitVec 40) : s.Extends (u.withMask m) ↔ s.Extends u := Iff.rfl
@[simp] theorem State.extends_withInPos (n : Nat) : s.Extends (u.withInPos n) ↔ s.Extends u := Iff.rfl
@[simp] theorem State.extends_withPhase (p : RdPhase) : s.Extends (u.withPhase p) ↔ s.Extends u := Iff.rfl
@[simp] theorem State.extends_endSource : s.Extends u.endSource ↔ s.Extends u := Iff.rfl
@[simp] theorem State.extends_withHdr (v : Vector Byte 80) : s.Extends (u.withHdr v) ↔ s.Extends u := Iff.rfl
@[simp] theorem State.extends_withPayload (m : Memory) : s.Extends (u.withPayload m) ↔ s.Extends u := Iff.rfl
@[simp] theorem State.extends_withSize (n : Nat) : s.Extends (u.withSize n) ↔ s.Extends u := Iff.rfl
@[simp] theorem State.extends_withGbtPos (n : Nat) : s.Extends (u.withGbtPos n) ↔ s.Extends u := Iff.rfl
@[simp] theorem State.extends_countGbt : s.Extends u.countGbt ↔ s.Extends u := Iff.rfl
@[simp] theorem State.extends_acceptEvent : s.Extends u.acceptEvent ↔ s.Extends u := Iff.rfl
@[simp] theorem State.extends_withElink (e : ElinkId) (b : Elink) : s.Extends (u.withElink e b) ↔ s.Extends u := Iff.rfl
@[simp] theorem State.extends_withScratch (k : Nat) (c : Container) : s.Extends (u.withScratch k c) ↔ s.Extends u := Iff.rfl
@[simp] theorem State.extends_streamRead (n : Nat) : s.Extends (streamRead n u).2 ↔ s.Extends u := Iff.rfl

end

@[simp] theorem State.extends_afterElink (s : State) (e : ElinkId) (b : Elink) (ps : List Packet) :
    s.Extends (s.afterElink e b ps) := ⟨rfl, rfl, rfl, rfl, List.prefix_append _ _⟩

/-! ### Bodies that extend the state they start from -/

@[simp] theorem Run.ends_raise {α : Type} (c : FatalCode) (s u : State) :
    (raise c u : Run α).Ends s.Extends ↔ s.Extends u := Iff.rfl

theorem Run.Ends.after_extends {α : Type} {x : Run α} {s u : State} (hx : x.Ends u.Extends) (h : s.Extends u) :
    x.Ends s.Extends := by
  cases x with
  | done a t => exact h.trans hx
  | fatal c t => exact h.trans hx

theorem Run.Ends.bind_extends {α β : Type} {x : Run α} {f : α → State → Run β} {s : State} (hx : x.Ends s.Extends)
    (hf : ∀ a u, (f a u).Ends u.Extends) : (x.bind f).Ends s.Extends :=
  hx.bind (fun a u _ h => (hf a u).after_extends h) (fun _ _ _ h => h)

/-- A command whose body extends every state it starts from answers a next state that extends the state before. -/
theorem command_extends {act : State → Host.Outcome State Fault Refusal} {body : State → Run Answer}
    (hact : ∀ u, act u = command u body) (h : ∀ u, (body u).Ends u.Extends) (s : State) :
    ∃ t, act s = .next t ∧ s.Extends t := by
  rw [hact]
  obtain ⟨t, ht, ⟨c, -, rfl⟩ | ⟨-, a, u, hb, rfl⟩ | ⟨-, c, u, hb, rfl⟩⟩ := command_cases s body
  · exact ⟨_, ht, .refl s⟩
  · exact ⟨_, ht, by simpa [hb] using h s⟩
  · exact ⟨_, ht, by simpa [hb] using h s⟩

/-! ### The bit container -/

theorem reading_extends {s : State} (h : Handle) {k : Container → Run Answer} (hk : ∀ c, (k c).Ends s.Extends) :
    (reading s h k).Ends s.Extends := by
  cases hc : s.resolveR h with
  | some c => rw [reading_some hc]; exact hk c
  | none => rw [reading_none hc]; simp

theorem writing_extends {s : State} (h : Handle) {k : Nat → Container → Run Answer} (hk : ∀ j c, (k j c).Ends s.Extends) :
    (writing s h k).Ends s.Extends := by
  cases hc : s.resolveW h with
  | some p => rw [writing_some hc]; exact hk p.1 p.2
  | none => rw [writing_none hc]; simp

theorem growAndWrite_extends (s : State) (j : Nat) (c : Container) (need : Nat) (w : Container → Container) :
    (growAndWrite s j c need w).Ends s.Extends := by
  obtain ⟨c', -, h⟩ | ⟨-, h⟩ := growAndWrite_cases s j c need w <;> simp [h]

/-- The shape of a body that checks a condition and raises a fatal when it holds (40_bit_container.md R86). -/
theorem guarded_extends {s : State} {p : Prop} [Decidable p] (c : FatalCode) {x : Run Answer} (hx : x.Ends s.Extends) :
    (if p then raise c s else x).Ends s.Extends := by
  split
  · simp
  · exact hx

theorem setBit_extends (s : State) (j : Nat) (c : Container) (i : Int) (v : Bool) : (setBit s j c i v).Ends s.Extends :=
  guarded_extends _ (growAndWrite_extends ..)

theorem setRange_extends (w : Nat) (h : Handle) (a b : Int) (x : BitVec w) (s : State) :
    (setRange w h a b x s).Ends s.Extends :=
  writing_extends h fun _ _ => guarded_extends _ (guarded_extends _ (growAndWrite_extends ..))

theorem uintRange_extends (w : Nat) (h : Handle) (a b : Int) (s : State) (k : BitVec w → Results) :
    (uintRange w h a b s k).Ends s.Extends :=
  reading_extends h fun _ => guarded_extends _ (guarded_extends _ (by simp))

theorem fromUint_extends (w : Nat) (h : Handle) (x : BitVec w) (s : State) : (fromUint w h x s).Ends s.Extends :=
  writing_extends h fun _ _ => growAndWrite_extends ..

/-! ### The elinks and Dispatch -/

theorem ElinkEffect.run_extends (x : ElinkEffect) (e : ElinkId) (s : State) : (x.run e s).Ends s.Extends := by
  unfold ElinkEffect.run
  split <;> simp

theorem push_extends (e : ElinkId) (v : Bool) (s : State) : (push e v s).Ends s.Extends := by
  rw [push_eq]; exact ElinkEffect.run_extends ..

theorem append_extends (e : ElinkId) (v0 v1 : Bool) (s : State) : (append e v0 v1 s).Ends s.Extends := by
  rw [append_eq]; exact ElinkEffect.run_extends ..

theorem headerReset_extends (e : ElinkId) (s : State) : (headerReset e s).Ends s.Extends := by
  rw [headerReset_eq]; exact ElinkEffect.run_extends ..

theorem headerData_extends (e : ElinkId) (h : Sdh) (s : State) : (headerData e h s).Ends s.Extends := by
  rw [headerData_eq]; exact ElinkEffect.run_extends ..

theorem headerSync_extends (e : ElinkId) (h : Sdh) (s : State) : (headerSync e h s).Ends s.Extends := by
  rw [headerSync_eq]; exact ElinkEffect.run_extends ..

theorem huntMatch_extends (e : ElinkId) (s : State) : (huntMatch e s).Ends s.Extends := by
  simp [huntMatch_eq]

theorem packetAnswer_extends {x : Run (Option Packet)} {s : State} (h : x.Ends s.Extends) :
    (packetAnswer x).Ends s.Extends := Run.ends_map.2 h

/-- A header row stores its word, then runs its arm (44_elink.md R133). -/
theorem headerRow_extends (e : ElinkId) (h : Sdh) {arm : State → Run (Option Packet)} (harm : ∀ u, (arm u).Ends u.Extends)
    (s : State) : (packetAnswer (arm (storeSdh e h s))).Ends s.Extends :=
  packetAnswer_extends ((harm _).after_extends (by simp [storeSdh]))

theorem dispatchPair_extends (g : List Byte) (i q : Nat) (s : State) : (dispatchPair g i q s).Ends s.Extends := by
  unfold dispatchPair
  split
  · simp
  · exact append_extends ..

theorem dispatchPairs_extends (g : List Byte) (l : List (Nat × Nat)) (ps : List Packet) (s : State) :
    (dispatchPairs g l ps s).Ends s.Extends := by
  induction l generalizing ps s with
  | nil => simp [dispatchPairs]
  | cons iq rest ih => exact (dispatchPair_extends g iq.1 iq.2 s).bind_extends fun _ _ => ih ..

theorem dispatchWord_extends (g : List Byte) (s : State) : (dispatchWord g s).Ends s.Extends := by
  unfold dispatchWord
  split
  · simp
  · exact Run.ends_map.2 (dispatchPairs_extends ..)

theorem clearAll_extends (s : State) : s.Extends (clearAll s) :=
  List.foldlRecOn _ _ (.refl s) fun u hu e _ => by simpa [forceClear_eq] using hu

/-! ### The reader, the extractor and the pipeline -/

theorem readPayload_extends (hb : List Byte) (L : Nat) (s : State) : (readPayload hb L s).Ends s.Extends := by
  unfold readPayload
  split
  · simp
  · dsimp only
    split
    · simp
    · split <;> simp

theorem readFrame_extends (hb : List Byte) (s : State) : (readFrame hb s).Ends s.Extends := by
  unfold readFrame
  dsimp only
  split
  · simp
  · split
    · simp
    · split
      · simp
      · exact (readPayload_extends ..).after_extends (by simp)

theorem nextEvent_extends (s : State) : (nextEvent s).Ends s.Extends := by
  unfold nextEvent
  split
  · simp
  · dsimp only
    split
    · simp
    · split
      · simp
      · exact (readFrame_extends ..).after_extends (by simp)

theorem gbtWindow_extends (s : State) : (gbtWindow s).Ends s.Extends := by
  unfold gbtWindow
  split <;> simp

theorem gbtLoaded_extends (s : State) : (gbtLoaded s).Ends s.Extends := by
  unfold gbtLoaded
  split
  · simp
  · split
    · exact (gbtWindow_extends _).after_extends (by simp)
    · simp

theorem gbtNeedEvent_extends (s : State) : (gbtNeedEvent s).Ends s.Extends :=
  (nextEvent_extends s).bind_extends fun r u => by
    cases r with
    | eof => simp
    | event => exact gbtLoaded_extends u

theorem nextGbt_extends (s : State) : (nextGbt s).Ends s.Extends := by
  unfold nextGbt
  split
  · simp
  · cases s.rdPhase with
    | needEvent => exact gbtNeedEvent_extends s
    | loaded => exact gbtLoaded_extends s
    | inEvent => exact gbtWindow_extends s

theorem stepOn_extends (r : GbtReply) (s : State) : (stepOn r s).Ends s.Extends := by
  cases r with
  | word g => exact Run.ends_map.2 (dispatchWord_extends g s)
  | endOfEvent =>
    simp only [stepOn, Run.ends_done]
    split
    · exact clearAll_extends s
    · simp
  | emptyEvent => simp [stepOn]
  | invalidSop => simp [stepOn]
  | eof => simp [stepOn]

theorem pipelineStep_extends (s : State) : (pipelineStep s).Ends s.Extends := by
  unfold pipelineStep
  split
  · simp
  · exact (nextGbt_extends s).bind_extends stepOn_extends

/-! ### Every command -/

/-- Every instruction but `SYS.RESET` answers a next state that extends the state before (10_state.md R26, R44). -/
theorem exec_extends {i : Instr} (hi : ∀ src, i ≠ .sysReset src) (s : State) : ∃ t, exec i s = .next t ∧ s.Extends t := by
  cases i
  case sysStatus => exact ⟨_, rfl, .refl s⟩
  case sysReset src => exact absurd rfl (hi src)
  all_goals refine command_extends (act := exec _) (fun _ => rfl) (fun u => ?_) s
  case bcGet h n => exact reading_extends h fun _ => guarded_extends _ (by simp)
  case bcSet h n v => exact writing_extends h fun _ _ => setBit_extends ..
  case bcAppend h v => exact writing_extends h fun _ _ => setBit_extends ..
  case bcClear h => exact writing_extends h fun _ _ => by simp
  case bcSetr8 h a b x => exact setRange_extends 8 h a b x u
  case bcSetr16 h a b x => exact setRange_extends 16 h a b x u
  case bcSetr32 h a b x => exact setRange_extends 32 h a b x u
  case bcSetr64 h a b x => exact setRange_extends 64 h a b x u
  case bcUint8 h a b => exact uintRange_extends 8 h a b u _
  case bcUint16 h a b => exact uintRange_extends 16 h a b u _
  case bcUint32 h a b => exact uintRange_extends 32 h a b u _
  case bcUint64 h a b => exact uintRange_extends 64 h a b u _
  case bcSetbytes h bs => exact writing_extends h fun _ _ => growAndWrite_extends ..
  case bcSearch h p =>
    refine reading_extends h fun c => reading_extends p fun q => guarded_extends _ ?_
    split <;> simp
  case bcLast d h n =>
    exact reading_extends h fun _ => writing_extends d fun _ _ => guarded_extends _ (growAndWrite_extends ..)
  case bcPrune h n => exact writing_extends h fun _ _ => guarded_extends _ (by simp)
  case bcEqual h p => exact reading_extends h fun _ => reading_extends p fun _ => by simp
  case bcCount h => exact reading_extends h fun _ => by simp
  case bcLen h => exact reading_extends h fun _ => by simp
  case bcStrl h => exact reading_extends h fun _ => by simp
  case bcStrr h => exact reading_extends h fun _ => by simp
  case bcFromstr h cs =>
    refine writing_extends h fun _ _ => ?_
    split
    · exact growAndWrite_extends ..
    · simp
  case bcFromu8 h x => exact fromUint_extends 8 h x u
  case bcFromu16 h x => exact fromUint_extends 16 h x u
  case bcFromu32 h x => exact fromUint_extends 32 h x u
  case bcFromu64 h x => exact fromUint_extends 64 h x u
  case rdNextevent => exact Run.ends_map.2 (nextEvent_extends u)
  case rdNextgbt => exact Run.ends_map.2 (nextGbt_extends u)
  case dspWord g => exact Run.ends_map.2 (dispatchWord_extends g u)
  case dspClearall => exact clearAll_extends u
  case elAppend e v0 v1 => exact packetAnswer_extends (append_extends e v0 v1 u)
  case elPush e v => exact packetAnswer_extends (push_extends e v u)
  case elForceclear e => simp [forceClear_eq]
  case elIsempty e => simp
  case elRead e => simp
  case plStep => exact pipelineStep_extends u
  case cfgSetmask m => simp
  case cfgGetmask => simp
  case sdhHeartbeat e f => exact headerRow_extends e _ (headerReset_extends e) u
  case sdhDataTruncated e f => exact headerRow_extends e _ (headerData_extends e _) u
  case sdhSync e f => exact headerRow_extends e _ (headerSync_extends e _) u
  case sdhDataTruncatedTriggerTooEarly e f => exact headerRow_extends e _ (headerData_extends e _) u
  case sdhData e f => exact headerRow_extends e _ (headerData_extends e _) u
  case sdhDataNumwords e f => exact headerRow_extends e _ (headerReset_extends e) u
  case sdhDataTriggerTooEarly e f => exact headerRow_extends e _ (headerData_extends e _) u
  case sdhDataTriggerTooEarlyNumwords e f => exact headerRow_extends e _ (headerData_extends e _) u
  case sdhSyncPatternHuntMatch e => exact packetAnswer_extends (huntMatch_extends e u)

end Sys2Proof.Machine
end

section
/-! The statements of 00_scope.md: a step always answers a next state, under the parameters it started with. -/

namespace Sys2Proof.Machine

/-- `SYS.RESET` starts the block again under the same parameters (10_state.md R26). -/
theorem exec_sysReset_config (src : List Byte) (s : State) :
    ∃ t, exec (.sysReset src) s = .next t ∧ t.config = s.config := ⟨_, rfl, rfl⟩

theorem exec_config (i : Instr) (s : State) : ∃ t, exec i s = .next t ∧ t.config = s.config := by
  by_cases hi : ∃ src, i = .sysReset src
  · obtain ⟨src, rfl⟩ := hi
    exact exec_sysReset_config src s
  · obtain ⟨t, ht, hx⟩ := exec_extends (not_exists.1 hi) s
    exact ⟨t, ht, hx.config⟩

theorem rejected_config (s : State) : ∃ t, rejected s = .next t ∧ t.config = s.config := by
  obtain ⟨t, ht, hx⟩ := command_extends (act := rejected) (fun _ => rfl) (fun u => by simp) s
  exact ⟨t, ht, hx.config⟩

@[simp] theorem drainHead_config (s : State) : (drainHead s).config = s.config := by
  unfold drainHead
  split <;> rfl

/-- Settles O19, by the four things a step can do: only `exec` and `rejected` run a command, and neither stops the machine or
writes the parameters. -/
theorem stepAlwaysAnswers : Obligations.StepAlwaysAnswers := by
  intro s
  obtain ⟨-, h⟩ | ⟨raw, rest, i, -, -, h⟩ | ⟨raw, rest, err, -, -, h⟩ | ⟨rest, -, h⟩ := step_cases s
  · exact ⟨s, h, rfl⟩
  · simpa [h] using exec_config i (s.withPending rest)
  · simpa [h] using rejected_config (s.withPending rest)
  · exact ⟨_, h, by simp⟩

end Sys2Proof.Machine
end

section
/-! The invariant of Safety.lean (10_state.md R31 - R40), kept by every named update of the state and by every way a command's
body can go on. -/

namespace Sys2Proof.Machine

/-! ### The states a command starts from and ends in -/

/-- A sound state without a fault: what the body of a command starts from (60_exceptions.md R161). -/
structure State.Ready (s : State) : Prop where
  inv : s.Inv
  unfaulted : s.fault = none

/-- A part of a command that keeps the invariant: it comes to a value `a` in a sound state `s` without a fault, where `Q a s`
holds, or a fatal stops it in a sound state. -/
def Run.Keeps {α : Type} (Q : α → State → Prop) (x : Run α) : Prop :=
  match x with
  | .done a s => s.Ready ∧ Q a s
  | .fatal _ s => s.Inv

/-- A part of a command that keeps the invariant, with nothing said of its value. -/
abbrev Run.Sound {α : Type} (x : Run α) : Prop := x.Keeps fun _ _ => True

theorem Run.sound_done {α : Type} {a : α} {s : State} (h : s.Ready) : (Run.done a s).Sound := ⟨h, trivial⟩

theorem Run.Keeps.sound {α : Type} {Q : α → State → Prop} {x : Run α} (h : x.Keeps Q) : x.Sound := by
  cases x with
  | done a s => exact Run.sound_done h.1
  | fatal c s => exact h

theorem Run.Keeps.bind {α β : Type} {Q : α → State → Prop} {R : β → State → Prop} {x : Run α} {f : α → State → Run β}
    (hx : x.Keeps Q) (hf : ∀ a s, s.Ready → Q a s → (f a s).Keeps R) : (x.bind f).Keeps R := by
  cases x with
  | done a s => exact hf a s hx.1 hx.2
  | fatal c s => exact hx

theorem Run.Sound.map {α β : Type} {x : Run α} (hx : x.Sound) (g : α → β) : (x.map g).Sound :=
  hx.bind fun _ _ hs _ => Run.sound_done hs

/-! ### What every part of the invariant reads -/

/-- A fault only weakens what is asked of a bank (60_exceptions.md R163). -/
theorem Elink.Sound.mono {b : Elink} {p q : Prop} (h : b.Sound p) (hpq : p → q) : b.Sound q :=
  { h with lenLt := fun hq => h.lenLt (hq ∘ hpq) }

/-! ### The named updates keep the invariant

What an update does not touch reads the same by definition, so each proof states the clauses it changes and no other. -/

section
variable {s : State} (h : s.Inv)
include h

theorem State.Inv.withResult (r : Answer) : (s.withResult r).Inv := { h with reader := { h.reader with } }

theorem State.Inv.withPending (l : List HostAction) : (s.withPending l).Inv := { h with reader := { h.reader with } }

theorem State.Inv.withMask (m : BitVec 40) : (s.withMask m).Inv := { h with reader := { h.reader with } }

theorem State.Inv.withHdr (v : Vector Byte 80) : (s.withHdr v).Inv := { h with reader := { h.reader with } }

theorem State.Inv.countGbt : s.countGbt.Inv := { h with reader := { h.reader with } }

/-- A fault recorded asks less of the banks and of the walk (60_exceptions.md R163). -/
theorem State.Inv.withFault (c : FatalCode) : (s.withFault c).Inv :=
  { h with
    reader := { h.reader with inEvent := fun hf => by simp at hf }
    elinks := fun e => (h.elinks e).mono fun _ => by simp }

theorem State.Inv.halt (he : s.rdEof = true) : s.halt.Inv := { h with reader := { h.reader with haltedAtEof := fun _ => he } }

theorem State.Inv.withInPos {n : Nat} (hn : n ≤ s.src.length) (he : s.rdEof = false) : (s.withInPos n).Inv :=
  { h with reader := { h.reader with posLe := hn, eofAtEnd := fun hr => by simp [he] at hr } }

theorem State.Inv.endSource (hp : s.inPos = s.src.length) : s.endSource.Inv :=
  { h with reader := { h.reader with eofAtEnd := fun _ => hp, haltedAtEof := fun _ => rfl } }

/-- The walk over an event ends (42_gbt_extractor.md R114). -/
theorem State.Inv.needEvent : (s.withPhase .needEvent).Inv :=
  { h with reader := { h.reader with counted := fun hp => absurd rfl hp, inEvent := fun _ hp => by simp at hp } }

theorem State.Inv.acceptEvent : s.acceptEvent.Inv :=
  { h with reader := { h.reader with counted := fun _ => by simp, inEvent := fun _ hp => by simp at hp } }

/-- The walk over an event starts, its SOP accepted (42_gbt_extractor.md R115). -/
theorem State.Inv.enterEvent (hl : s.rdPhase ≠ .needEvent) (hsop : sopOk s.payload s.size = true) :
    ((s.withGbtPos 44).withPhase .inEvent).Inv :=
  { h with
    reader := { h.reader with
      counted := fun _ => h.reader.counted hl
      inEvent := fun _ _ => ⟨hsop, by simp⟩ } }

/-- The walk moves on by a window that ends before the trailer (42_gbt_extractor.md R117). -/
theorem State.Inv.nextWindow (hw : s.gbtPos + 48 ≤ s.size) : (s.withGbtPos (s.gbtPos + 16)).Inv :=
  { h with
    reader := { h.reader with
      inEvent := fun hf hp => by
        obtain ⟨hsop, hlo, hmod, -⟩ := h.reader.inEvent hf hp
        exact ⟨hsop, by simp; omega, by simp; omega, .inr (by simp; omega)⟩ } }

/-- No walk that must go on is in progress: the payload buffer may be written. -/
theorem State.Inv.withSize {n : Nat} (hn : n ≤ s.config.maxPayloadBytes) (hw : s.fault = none → s.rdPhase ≠ .inEvent) :
    (s.withSize n).Inv :=
  { h with reader := { h.reader with sizeLe := hn, inEvent := fun hf hp => absurd hp (hw hf) } }

theorem State.Inv.writePayload {bs : List Byte} (hb : bs.length ≤ s.config.maxPayloadBytes)
    (hw : s.fault = none → s.rdPhase ≠ .inEvent) : (s.withPayload (s.payload.write 0 bs)).Inv :=
  { h with
    reader := { h.reader with
      payloadWF := Memory.write_wf h.reader.payloadWF 0 bs
      payloadInside := by
        rintro ⟨a, b⟩ hc
        obtain hc | ⟨hc, -⟩ := Memory.mem_write.1 hc
        · have := (mem_cellsFrom.1 hc).2.1
          simp; omega
        · exact h.reader.payloadInside _ hc
      inEvent := fun hf hp => absurd hp (hw hf) } }

theorem State.Inv.withElink {e : ElinkId} {b : Elink} (hb : b.Sound (s.fault ≠ none)) : (s.withElink e b).Inv :=
  { h with
    reader := { h.reader with }
    elinks := fun e' => by
      rw [State.withElink_elink]
      split
      · exact hb
      · exact h.elinks e' }

theorem State.Inv.afterElink {e : ElinkId} {b : Elink} {ps : List Packet} (hb : b.Sound (s.fault ≠ none))
    (hps : ∀ p ∈ ps, p.Fits) : (s.afterElink e b ps).Inv :=
  { h.withElink (e := e) hb with
    reader := { h.reader with }
    packets := by
      intro p hp
      rw [State.afterElink_out, ← List.append_assoc, List.mem_append] at hp
      exact hp.elim (h.packets p) (hps p) }

theorem State.Inv.withScratch {j : Nat} {c : Container} (hw : c.WF) (hc : 1 ≤ c.cap) : (s.withScratch j c).Inv :=
  { h with
    reader := { h.reader with }
    scratchCount := by simpa using h.scratchCount
    scratchSound := fun d hd => by
      obtain hd | rfl := List.mem_or_eq_of_mem_set hd
      · exact h.scratchSound d hd
      · exact ⟨hw, hc⟩ }

end

/-- A packet drained was fit before it was (45_pipeline.md R154). -/
theorem State.Inv.drainHead {s : State} (h : s.Inv) : (drainHead s).Inv := by
  unfold Machine.drainHead
  split
  · exact h
  · next p rest ho =>
    exact { h with reader := { h.reader with }, packets := fun q hq => h.packets q (by simpa [ho] using hq) }

/-! ### The state of a bank, and an empty one -/

theorem Elink.state_eq_hunt (b : Elink) : b.state = .hunt ↔ b.indata = false ∧ b.nsync = 0 := by
  cases hd : b.indata <;> simp [Elink.state, hd]

theorem Elink.state_eq_header (b : Elink) : b.state = .header ↔ b.indata = false ∧ b.nsync ≠ 0 := by
  cases hd : b.indata <;> simp [Elink.state, hd]

theorem Elink.state_eq_data (b : Elink) : b.state = .data ↔ b.indata = true := by
  cases hd : b.indata <;> simp [Elink.state, hd]
  split <;> simp

/-- An empty bank at checkpoint 50 outside DATA is sound whatever its flags: the bank every `clear(); checkpoint <- 50` of
44_elink.md leaves. -/
theorem Elink.sound_of_empty {b : Elink} {p : Prop} (hw : b.bits.WF) (hc : 1 ≤ b.bits.cap) (hl : b.bits.len = 0)
    (hcp : b.checkpoint = 50) (hd : b.indata = false) : b.Sound p where
  bitsWF := hw
  capPos := hc
  lenLe := by omega
  lenLt _ := by omega
  synced h := by simp [hd] at h
  huntCheckpoint _ := by simp [hl, hcp]
  headerCheckpoint _ := hcp
  dataCheckpoint h := by simp [Elink.state_eq_data, hd] at h
  dataHeader h := by simp [Elink.state_eq_data, hd] at h

/-! ### The reset state -/

theorem State.resetWith_elink (cfg : Config) (src : List Byte) (e : ElinkId) :
    (State.resetWith cfg src).elink e = Elink.reset cfg.elinkInitCapacityBits := by
  simp [State.elink, State.resetWith]

theorem Config.chip_valid : Config.chip.Valid := by
  have := Config.openDispatchBytes.isLt
  simp only [Config.chip, Config.Valid, Config.withDispatchBytes]
  omega

theorem State.Inv.resetWith {cfg : Config} (hcfg : cfg.Valid) (src : List Byte) : (State.resetWith cfg src).Inv where
  config := hcfg
  reader := by constructor <;> simp [State.resetWith, Memory.wf]
  elinks e := by
    obtain ⟨-, -, hel, -, -⟩ := hcfg
    rw [State.resetWith_elink]
    exact Elink.sound_of_empty (Container.empty_WF _) (le_trans (by omega) hel) rfl rfl rfl
  scratchCount := by simp [State.resetWith]
  scratchSound c hc := by
    obtain ⟨-, -, -, hsc, -⟩ := hcfg
    obtain rfl := List.eq_of_mem_replicate hc
    exact ⟨Container.empty_WF _, hsc⟩
  packets := by simp [State.resetWith]

/-- `SYS.RESET` keeps the parameters and the packets the host has drained (10_state.md R26). -/
theorem State.Inv.restart {s : State} (h : s.Inv) (src : List Byte) : (s.restart src).Inv :=
  { State.Inv.resetWith h.config src with
    reader := { (State.Inv.resetWith h.config src).reader with }
    packets := fun p hp => h.packets p (List.mem_append_left _ (by simpa [State.restart, State.resetWith] using hp)) }

end Sys2Proof.Machine
end

section
/-! The elink unit and Dispatch keep the invariant (44_elink.md R127 - R142, 43_dispatch.md R120, R121): shown of one bank, by its
effect, and carried to the block. -/

namespace Sys2Proof.Machine

/-! ### Clusters and packets (44_elink.md R140, R141) -/

theorem Container.split10_length (c : Container) : c.split10.length = c.len / 10 := by simp [Container.split10]

/-- The clusters decoded from some words span them all, but for at most one word left over. -/
theorem clustersOf_words {fuel : Nat} {w : List Word10} {cs : List Cluster} (hf : w.length ≤ fuel)
    (h : clustersOf fuel w = some cs) :
    (cs.map Cluster.words).sum ≤ w.length ∧ w.length ≤ (cs.map Cluster.words).sum + 1 := by
  induction fuel, w using clustersOf.induct generalizing cs with
  | case1 fuel n ts rest hlt => simp [clustersOf, hlt] at h
  | case2 fuel n ts rest hle ih =>
    rw [clustersOf, if_neg hle, Option.map_eq_some_iff] at h
    obtain ⟨cs', hcs', rfl⟩ := h
    simp only [List.length_cons] at hf
    have hrest := ih (by simp only [List.length_drop]; omega) hcs'
    simp only [List.length_drop] at hrest
    simp only [List.map_cons, List.sum_cons, Cluster.words, List.length_take, List.length_cons] at hrest ⊢
    omega
  | case3 fuel w hw =>
    have hshort : w.length ≤ 1 := by
      rcases w with _ | ⟨n, _ | ⟨ts, rest⟩⟩
      · simp
      · simp
      · rcases fuel with _ | fuel
        · simp at hf
        · exact (hw fuel n ts rest rfl rfl).elim
    rw [clustersOf] at h
    · obtain rfl := Option.some.inj h
      simpa using hshort
    · exact hw

/-- The PKT values of the class "data" (30_encoding.md R72). -/
theorem dataPkt_iff (p : BitVec 3) :
    dataPkt p = true ↔ p.toNat = 1 ∨ p.toNat = 3 ∨ p.toNat = 4 ∨ p.toNat = 6 ∨ p.toNat = 7 := by
  revert p
  decide

/-! ### A bank whose last bit has reached its checkpoint -/

/-- What `process` finds (44_elink.md R130): a bank that was sound before the bit that brought its length to its checkpoint. -/
structure Elink.Due (b : Elink) : Prop where
  bitsWF : b.bits.WF
  capPos : 1 ≤ b.bits.cap
  lenEq : b.bits.len = b.checkpoint
  synced : b.indata = true → 1 ≤ b.nsync
  huntCheckpoint : b.state = .hunt → 50 ≤ b.checkpoint
  headerCheckpoint : b.state = .header → b.checkpoint = 50
  dataCheckpoint : b.state = .data → b.checkpoint = 10 * (Sdh.numWords b.sdh).toNat ∧ 1 ≤ (Sdh.numWords b.sdh).toNat
  dataHeader : b.state = .data → dataPkt (Sdh.pkt b.sdh) = true

@[simp] theorem Elink.store_len (b : Elink) (c : Container) (v : Bool) : (b.store c v).bits.len = c.len + 1 := by
  simp [Elink.store]

theorem Elink.store_state (b : Elink) (c : Container) (v : Bool) : (b.store c v).state = b.state := rfl

section
variable {b : Elink} {c : Container} {max : Nat}

theorem Elink.store_WF (hb : b.bits.WF) (hg : b.bits.grow max (b.bits.len + 1) = some c) (v : Bool) : (b.store c v).bits.WF := by
  obtain ⟨hlen, -, hroom, -, -⟩ := Container.grow_eq_some hg
  exact Container.set_WF (Container.grow_WF hg hb) v (by omega)

theorem Elink.store_cap (hb : 1 ≤ b.bits.cap) (hg : b.bits.grow max (b.bits.len + 1) = some c) (v : Bool) :
    1 ≤ (b.store c v).bits.cap := by
  obtain ⟨-, -, -, hcap, -⟩ := Container.grow_eq_some hg
  exact hb.trans hcap

/-- A bit stored short of the checkpoint. -/
theorem Elink.Sound.store (h : b.Sound False) (hg : b.bits.grow max (b.bits.len + 1) = some c) (v : Bool)
    (hne : (b.store c v).bits.len ≠ (b.store c v).checkpoint) : (b.store c v).Sound False := by
  have hlen : c.len = b.bits.len := (Container.grow_eq_some hg).1
  have hlt : c.len + 1 < b.checkpoint := by
    have hroom := h.lenLt id
    rw [Elink.store_len] at hne
    have hne : c.len + 1 ≠ b.checkpoint := hne
    omega
  exact
    { h with
      bitsWF := Elink.store_WF h.bitsWF hg v
      capPos := Elink.store_cap h.capPos hg v
      lenLe := by rw [Elink.store_len]; exact hlt.le
      lenLt := fun _ => by rw [Elink.store_len]; exact hlt
      huntCheckpoint := fun hs => by
        have hcp := h.huntCheckpoint hs
        show b.checkpoint = _
        rw [Elink.store_len]
        omega }

/-- The bit stored that reaches the checkpoint. -/
theorem Elink.Sound.store_due (h : b.Sound False) (hg : b.bits.grow max (b.bits.len + 1) = some c) (v : Bool)
    (heq : (b.store c v).bits.len = (b.store c v).checkpoint) : (b.store c v).Due :=
  { h with
    bitsWF := Elink.store_WF h.bitsWF hg v
    capPos := Elink.store_cap h.capPos hg v
    lenEq := heq
    huntCheckpoint := fun hs => (h.huntCheckpoint hs).symm ▸ le_max_left .. }

end

/-! ### Every effect on a bank is sound -/

/-- An effect that keeps the invariant: the bank it leaves is sound, up to its fatal, and its packets fit their headers. -/
structure ElinkEffect.Sound (x : ElinkEffect) : Prop where
  bank : x.bank.Sound (x.fatal ≠ none)
  out : ∀ p ∈ x.out, p.Fits

theorem ElinkEffect.Sound.quiet {b : Elink} (h : b.Sound False) : (ElinkEffect.mk b [] none).Sound :=
  ⟨h.mono False.elim, by simp⟩

theorem ElinkEffect.Sound.packet {b : Elink} {p : Packet} (h : b.Sound False) (hp : p.Fits) : (ElinkEffect.mk b [p] none).Sound :=
  ⟨h.mono False.elim, by simpa using hp⟩

theorem ElinkEffect.Sound.raised {b : Elink} (h : b.Sound True) (c : FatalCode) : (ElinkEffect.mk b [] (some c)).Sound :=
  ⟨h.mono fun _ => by simp, by simp⟩

section
variable {b : Elink} (h : b.Due)
include h

/-- A fatal may leave a bank outside HUNT at its checkpoint (60_exceptions.md R163). -/
theorem Elink.Due.sound_of_fatal (hs : b.state ≠ .hunt) : b.Sound True :=
  { h with
    lenLe := h.lenEq.le
    lenLt := fun hf => absurd trivial hf
    huntCheckpoint := fun hh => absurd hh hs }

theorem Elink.Due.rearm_sound (hd : b.indata = false) : (b.rearm 50).Sound False :=
  Elink.sound_of_empty b.bits.clear_WF h.capPos rfl rfl hd

theorem Elink.Due.countSync_sound (hd : b.indata = false) : b.countSync.Sound False :=
  Elink.sound_of_empty b.bits.clear_WF h.capPos rfl rfl hd

theorem Elink.Due.acquire_sound (hd : b.indata = false) (w : Sdh) : (b.acquire w).Sound False :=
  Elink.sound_of_empty b.bits.clear_WF h.capPos rfl rfl hd

theorem Elink.Due.leaveData_sound : b.leaveData.Sound False :=
  Elink.sound_of_empty b.bits.clear_WF h.capPos rfl rfl rfl

theorem Elink.Due.slide_sound (hs : b.state = .hunt) : b.slide.Sound False := by
  have hlen := h.lenEq
  have hcp := h.huntCheckpoint hs
  obtain ⟨hd, hn⟩ := b.state_eq_hunt.1 hs
  refine { bitsWF := h.bitsWF, capPos := h.capPos, lenLe := ?_, lenLt := fun _ => ?_, synced := h.synced,
           huntCheckpoint := fun _ => ?_, headerCheckpoint := ?_, dataCheckpoint := ?_, dataHeader := ?_ }
  · simp only [Elink.slide]; omega
  · simp only [Elink.slide]; omega
  · simp only [Elink.slide]; omega
  · intro hh; simp [Elink.state_eq_header, Elink.slide, hn] at hh
  · intro hh; simp [Elink.state_eq_data, Elink.slide, hd] at hh
  · intro hh; simp [Elink.state_eq_data, Elink.slide, hd] at hh

/-- Into DATA, under a header of a data PKT with words to come (44_elink.md R134). -/
theorem Elink.Due.enterData_sound (hs : b.state = .header) (hp : dataPkt (Sdh.pkt b.sdh) = true)
    (hw : (Sdh.numWords b.sdh).toNat ≠ 0) : (b.enterData (Sdh.numWords b.sdh).toNat).Sound False := by
  have hsync := (b.state_eq_header.1 hs).2
  refine { bitsWF := b.bits.clear_WF, capPos := h.capPos, lenLe := Nat.zero_le _, lenLt := fun _ => ?_,
           synced := fun _ => Nat.one_le_iff_ne_zero.2 hsync, huntCheckpoint := ?_, headerCheckpoint := ?_,
           dataCheckpoint := fun _ => ⟨rfl, Nat.one_le_iff_ne_zero.2 hw⟩, dataHeader := fun _ => hp }
  · show 0 < 10 * (Sdh.numWords b.sdh).toNat
    omega
  · intro hh; simp [Elink.state_eq_hunt, Elink.enterData] at hh
  · intro hh; simp [Elink.state_eq_header, Elink.enterData] at hh

theorem Elink.Due.withSdh (hs : b.state = .header) (w : Sdh) : (b.withSdh w).Due := by
  have hd : ¬ b.state = .data := by simp [hs]
  exact { h with dataCheckpoint := fun hh => absurd hh hd, dataHeader := fun hh => absurd hh hd }

theorem Elink.Due.huntEffect_sound (hs : b.state = .hunt) : b.huntEffect.Sound := by
  unfold Elink.huntEffect
  split
  · exact .quiet (h.acquire_sound (b.state_eq_hunt.1 hs).1 _)
  · exact .quiet (h.slide_sound hs)

/-- `numWords` 0 makes an empty packet, which fits (44_elink.md R134). -/
theorem Elink.Due.headerDataEffect_sound (hs : b.state = .header) (hp : dataPkt (Sdh.pkt b.sdh) = true) (e : ElinkId) :
    (b.headerDataEffect e b.sdh).Sound := by
  unfold Elink.headerDataEffect
  split
  · next hz => exact .packet (h.rearm_sound (b.state_eq_header.1 hs).1) ⟨hp, by simp, by simp [hz]⟩
  · next hnz => exact .quiet (h.enterData_sound hs hp hnz)

theorem Elink.Due.headerSyncEffect_sound (hs : b.state = .header) (w : Sdh) : (b.headerSyncEffect w).Sound := by
  unfold Elink.headerSyncEffect
  split
  · exact .raised (h.sound_of_fatal (by simp [hs])) _
  · exact .quiet (h.countSync_sound (b.state_eq_header.1 hs).1)

/-- The arm PKT selects, on a bank that has stored the header (44_elink.md R133). -/
theorem Elink.Due.headerArmEffect_sound (hs : b.state = .header) (e : ElinkId) : (b.headerArmEffect e b.sdh).Sound := by
  have hreset : (ElinkEffect.mk (b.rearm 50) [] none).Sound := .quiet (h.rearm_sound (b.state_eq_header.1 hs).1)
  have hdata : ∀ n ∈ [1, 3, 4, 6, 7], (Sdh.pkt b.sdh).toNat = n → (b.headerDataEffect e b.sdh).Sound := fun n hn hp =>
    h.headerDataEffect_sound hs ((dataPkt_iff _).2 (by simp at hn; omega)) e
  unfold Elink.headerArmEffect
  split
  case h_1 => exact hreset
  case h_2 hp => exact hdata 1 (by simp) hp
  case h_3 => exact h.headerSyncEffect_sound hs _
  case h_4 hp => exact hdata 3 (by simp) hp
  case h_5 hp => exact hdata 4 (by simp) hp
  case h_6 => exact hreset
  case h_7 hp => exact hdata 6 (by simp) hp
  case h_8 hp => exact hdata 7 (by simp) hp
  case h_9 => exact hreset

theorem Elink.Due.headerEffect_sound (hs : b.state = .header) (e : ElinkId) : (b.headerEffect e).Sound :=
  (h.withSdh hs b.bits.last50).headerArmEffect_sound hs e

/-- The payload holds `numWords` words, so its clusters fit (44_elink.md R139 - R141). -/
theorem Elink.Due.dataEffect_sound (hs : b.state = .data) (e : ElinkId) : (b.dataEffect e).Sound := by
  unfold Elink.dataEffect
  split
  · exact .raised (h.sound_of_fatal (by simp [hs])) _
  · next cs hcs =>
    have hwords := clustersOf_words le_rfl hcs
    have hlen : b.bits.split10.length = (Sdh.numWords b.sdh).toNat := by
      rw [Container.split10_length, h.lenEq, (h.dataCheckpoint hs).1]
      omega
    rw [hlen] at hwords
    exact .packet h.leaveData_sound ⟨h.dataHeader hs, hwords⟩

theorem Elink.Due.processEffect_sound (e : ElinkId) : (b.processEffect e).Sound := by
  unfold Elink.processEffect
  split
  · next hne => exact absurd h.lenEq hne
  · split
    · next hbad => exact absurd (h.synced hbad.1) (by omega)
    · cases hs : b.state with
      | data => exact h.dataEffect_sound hs e
      | hunt => exact h.huntEffect_sound hs
      | header => exact h.headerEffect_sound hs e

end

theorem Elink.Sound.pushEffect_sound {b : Elink} (h : b.Sound False) (max : Nat) (e : ElinkId) (v : Bool) :
    (b.pushEffect max e v).Sound := by
  unfold Elink.pushEffect
  split
  · exact .raised (h.mono False.elim) _
  · next c hg =>
    split
    · next heq => exact (h.store_due hg v heq).processEffect_sound e
    · next hne => exact .quiet (h.store hg v hne)

theorem Elink.Sound.appendEffect_sound {b : Elink} (h : b.Sound False) (max : Nat) (e : ElinkId) (v0 v1 : Bool) :
    (b.appendEffect max e v0 v1).Sound := by
  have h0 := h.pushEffect_sound max e v0
  unfold Elink.appendEffect
  split
  · exact h0
  · next hf =>
    have h1 := (h0.bank.mono fun hne => hne hf).pushEffect_sound max e v1
    exact ⟨h1.bank, fun p hp => (List.mem_append.1 hp).elim (h0.out p) (h1.out p)⟩

theorem Elink.Sound.forceClear_sound {b : Elink} {p : Prop} (h : b.Sound p) : b.forceClear.Sound p :=
  Elink.sound_of_empty b.bits.clear_WF h.capPos rfl rfl rfl

/-! ### The block -/

section
variable {s : State} (h : s.Ready)
include h

theorem State.Ready.elink (e : ElinkId) : (s.elink e).Sound False := (h.inv.elinks e).mono fun hf => hf h.unfaulted

theorem State.Ready.run_effect {x : ElinkEffect} (hx : x.Sound) (e : ElinkId) : (x.run e s).Sound := by
  unfold ElinkEffect.run
  split
  · next c hc =>
    exact (h.inv.withFault c).afterElink (hx.bank.mono fun _ => by simp) hx.out
  · next hc => exact Run.sound_done ⟨h.inv.afterElink (hx.bank.mono fun hne => absurd hc hne) hx.out, h.unfaulted⟩

theorem State.Ready.push_sound (e : ElinkId) (v : Bool) : (push e v s).Sound := by
  rw [push_eq]
  exact h.run_effect ((h.elink e).pushEffect_sound ..) e

theorem State.Ready.append_sound (e : ElinkId) (v0 v1 : Bool) : (append e v0 v1 s).Sound := by
  rw [append_eq]
  exact h.run_effect ((h.elink e).appendEffect_sound ..) e

theorem State.Ready.forceClear (e : ElinkId) : (forceClear e s).Ready :=
  ⟨h.inv.withElink (h.inv.elinks e).forceClear_sound, h.unfaulted⟩

theorem State.Ready.clearAll : (clearAll s).Ready := List.foldlRecOn _ _ h fun _ hu e _ => hu.forceClear e

theorem State.Ready.dispatchPair_sound (g : List Byte) (i q : Nat) : (dispatchPair g i q s).Sound := by
  unfold dispatchPair
  split
  · exact Run.sound_done h
  · exact h.append_sound ..

end

theorem State.Ready.dispatchPairs_sound {s : State} (h : s.Ready) (g : List Byte) (l : List (Nat × Nat)) (ps : List Packet) :
    (dispatchPairs g l ps s).Sound := by
  induction l generalizing ps s with
  | nil => exact Run.sound_done h
  | cons iq rest ih => exact (h.dispatchPair_sound g iq.1 iq.2).bind fun _ _ hu _ => ih hu _

theorem State.Ready.dispatchWord_sound {s : State} (h : s.Ready) (g : List Byte) : (dispatchWord g s).Sound := by
  unfold dispatchWord
  split
  · exact Run.sound_done h
  · exact (h.dispatchPairs_sound g _ []).map _

end Sys2Proof.Machine
end

section
/-! The host can issue no header row: what the command map decodes to is encoded as a command (30_encoding.md R77 - R80). -/

namespace Sys2Proof

/-- A host command: an instruction whose encoding is a command, and so no header row (30_encoding.md R72, R79; log 9). -/
def Instr.IsCommand (i : Instr) : Prop := ∃ c, encode i = .command c

section
variable {i : Instr} {l : List Operand}

theorem isCommand_of_parse0 {k : Instr} (hk : k.IsCommand) (h : parse0 k l = .ok i) : i.IsCommand := by
  obtain ⟨-, rfl⟩ := parse0_ok h
  exact hk

theorem isCommand_of_parse1 {α : Type} {p : Operand → Except DecodeError α} {k : α → Instr} (hk : ∀ x, (k x).IsCommand)
    (h : parse1 p k l = .ok i) : i.IsCommand := by
  obtain ⟨_, x, -, -, rfl⟩ := parse1_ok h
  exact hk x

theorem isCommand_of_parse2 {α β : Type} {p : Operand → Except DecodeError α} {q : Operand → Except DecodeError β}
    {k : α → β → Instr} (hk : ∀ x y, (k x y).IsCommand) (h : parse2 p q k l = .ok i) : i.IsCommand := by
  obtain ⟨_, _, x, y, -, -, -, rfl⟩ := parse2_ok h
  exact hk x y

theorem isCommand_of_parse3 {α β γ : Type} {p : Operand → Except DecodeError α} {q : Operand → Except DecodeError β}
    {r : Operand → Except DecodeError γ} {k : α → β → γ → Instr} (hk : ∀ x y z, (k x y z).IsCommand)
    (h : parse3 p q r k l = .ok i) : i.IsCommand := by
  obtain ⟨_, _, _, x, y, z, -, -, -, -, rfl⟩ := parse3_ok h
  exact hk x y z

theorem isCommand_of_parse4 {α β γ δ : Type} {p : Operand → Except DecodeError α} {q : Operand → Except DecodeError β}
    {r : Operand → Except DecodeError γ} {t : Operand → Except DecodeError δ} {k : α → β → γ → δ → Instr}
    (hk : ∀ x y z w, (k x y z w).IsCommand) (h : parse4 p q r t k l = .ok i) : i.IsCommand := by
  obtain ⟨_, _, _, _, x, y, z, w, -, -, -, -, -, rfl⟩ := parse4_ok h
  exact hk x y z w

end

/-- The command map lists no header row: each of its lines parses the operands of a constructor that is a command. -/
theorem decode_command_isCommand {raw : RawCommand} {i : Instr} (h : decode (.command raw) = .ok i) : i.IsCommand := by
  have h : decodeCommand raw = .ok i := h
  unfold decodeCommand at h
  split at h
  all_goals first
    | exact isCommand_of_parse0 ⟨_, rfl⟩ h
    | exact isCommand_of_parse1 (fun _ => ⟨_, rfl⟩) h
    | exact isCommand_of_parse2 (fun _ _ => ⟨_, rfl⟩) h
    | exact isCommand_of_parse3 (fun _ _ _ => ⟨_, rfl⟩) h
    | exact isCommand_of_parse4 (fun _ _ _ _ => ⟨_, rfl⟩) h
    | cases h

end Sys2Proof
end

section
/-! The reader, the extractor, the pipeline and the bit container keep the invariant, so every command of the host
does (41_frame_reader.md, 42_gbt_extractor.md, 45_pipeline.md, 40_bit_container.md). -/

namespace Sys2Proof.Machine

theorem State.Ready.raise {α : Type} {s : State} (h : s.Ready) (Q : α → State → Prop) (c : FatalCode) :
    (raise c s : Run α).Keeps Q := h.inv.withFault c

/-- The shape of a body that checks a condition and raises a fatal when it holds (40_bit_container.md R86). -/
theorem State.Ready.guarded {s : State} (h : s.Ready) {p : Prop} [Decidable p] (c : FatalCode) {x : Run Answer}
    (hx : ¬ p → x.Sound) : (if p then Machine.raise c s else x).Sound := by
  split
  · exact h.raise _ c
  · next hp => exact hx hp

/-! ### The reader -/

/-- What is known of the state with an answer of the reader: its source is at its end, or an event is loaded
(41_frame_reader.md R105). -/
def EventReply.Leaves (r : EventReply) (s : State) : Prop :=
  match r with
  | .eof => s.rdEof = true
  | .event _ _ _ => s.rdPhase = .loaded

/-- What is known of the state with an answer of the extractor (42_gbt_extractor.md R114). -/
def GbtReply.Leaves (r : GbtReply) (s : State) : Prop := r = .eof → s.rdEof = true

theorem State.Ready.streamRead {s : State} (h : s.Ready) (he : s.rdEof = false) (n : Nat) : (streamRead n s).2.Ready := by
  have := h.inv.reader.posLe
  rw [streamRead_state]
  exact ⟨h.inv.withInPos (by omega) he, h.unfaulted⟩

/-- The frame's payload stored, when no walk over the old one can go on (41_frame_reader.md R105). -/
theorem State.Inv.storePayload {s : State} (h : s.Inv) {bs : List Byte} {n : Nat} (hb : bs.length ≤ s.config.maxPayloadBytes)
    (hn : n ≤ s.config.maxPayloadBytes) (hw : s.fault = none → s.rdPhase ≠ .inEvent) :
    ((s.withPayload (s.payload.write 0 bs)).withSize n).Inv :=
  (h.writePayload hb hw).withSize hn hw

section
variable {s : State} (h : s.Ready)
include h

theorem State.Ready.readPayload_keeps (he : s.rdEof = false) (hb : List Byte) (L : Nat) :
    (readPayload hb L s).Keeps EventReply.Leaves := by
  unfold readPayload
  split
  · exact h.raise _ _
  · next hL =>
    have h1 := h.streamRead he L
    have hread : (Machine.streamRead L s).1.length ≤ s.config.maxPayloadBytes := by rw [streamRead_length]; omega
    dsimp only
    split
    · exact h1.raise _ _
    · split
      · exact (h1.inv.withFault _).storePayload hread (not_lt.1 hL) (fun hf => by simp at hf)
      · exact ⟨⟨h1.inv.acceptEvent.storePayload hread (not_lt.1 hL) (fun _ => by simp), h1.unfaulted⟩, rfl⟩

theorem State.Ready.readFrame_keeps (he : s.rdEof = false) (hb : List Byte) : (readFrame hb s).Keeps EventReply.Leaves := by
  have h1 : (s.withHdr (headerRegister hb)).Ready := ⟨h.inv.withHdr _, by simpa using h.unfaulted⟩
  have he1 : (s.withHdr (headerRegister hb)).rdEof = false := by simpa using he
  unfold readFrame
  dsimp only
  generalize s.withHdr (headerRegister hb) = s1 at h1 he1 ⊢
  split
  · exact h1.raise _ _
  · split
    · exact h1.raise _ _
    · split
      · exact ⟨⟨h1.inv.acceptEvent.withSize (Nat.zero_le _) (fun _ => by simp), h1.unfaulted⟩, rfl⟩
      · exact h1.readPayload_keeps he1 _ _

theorem State.Ready.nextEvent_keeps : (nextEvent s).Keeps EventReply.Leaves := by
  unfold nextEvent
  split
  · next he => exact ⟨h, he⟩
  · next he =>
    have he : s.rdEof = false := by simpa using he
    have h1 := h.streamRead he 80
    have hlen := streamRead_length 80 s
    have hpos := h.inv.reader.posLe
    dsimp only
    split
    · next hz =>
      refine ⟨⟨h1.inv.endSource ?_, h.unfaulted⟩, rfl⟩
      simp only [streamRead_state, State.withInPos_inPos, State.withInPos_src]
      omega
    · split
      · exact h1.raise _ _
      · exact h1.readFrame_keeps he _

theorem State.Ready.gbtWindow_keeps : (gbtWindow s).Keeps GbtReply.Leaves := by
  unfold gbtWindow
  split
  · exact ⟨⟨h.inv.needEvent, h.unfaulted⟩, by simp [GbtReply.Leaves]⟩
  · next hw => exact ⟨⟨(h.inv.nextWindow (not_lt.1 hw)).countGbt, h.unfaulted⟩, by simp [GbtReply.Leaves]⟩

theorem State.Ready.gbtLoaded_keeps (hl : s.rdPhase = .loaded) : (gbtLoaded s).Keeps GbtReply.Leaves := by
  have hback : (s.withPhase .needEvent).Ready := ⟨h.inv.needEvent, h.unfaulted⟩
  unfold gbtLoaded
  split
  · exact ⟨hback, by simp [GbtReply.Leaves]⟩
  · split
    · next hsop => exact State.Ready.gbtWindow_keeps ⟨h.inv.enterEvent (by simp [hl]) hsop, h.unfaulted⟩
    · exact ⟨hback, by simp [GbtReply.Leaves]⟩

theorem State.Ready.gbtNeedEvent_keeps : (gbtNeedEvent s).Keeps GbtReply.Leaves :=
  h.nextEvent_keeps.bind fun r u hu hr => by
    cases r with
    | eof => exact ⟨hu, fun _ => hr⟩
    | event => exact hu.gbtLoaded_keeps hr

theorem State.Ready.nextGbt_keeps : (nextGbt s).Keeps GbtReply.Leaves := by
  unfold nextGbt
  split
  · next he => exact ⟨h, fun _ => he⟩
  · cases hp : s.rdPhase with
    | needEvent => exact h.gbtNeedEvent_keeps
    | loaded => exact h.gbtLoaded_keeps hp
    | inEvent => exact h.gbtWindow_keeps

/-! ### The pipeline -/

theorem State.Ready.stepOn_sound {r : GbtReply} (hr : r.Leaves s) : (stepOn r s).Sound := by
  cases r with
  | word g => exact (h.dispatchWord_sound g).map _
  | emptyEvent => exact Run.sound_done h
  | invalidSop => exact Run.sound_done h
  | eof => exact Run.sound_done ⟨h.inv.halt (hr rfl), h.unfaulted⟩
  | endOfEvent =>
    refine Run.sound_done ?_
    split
    · exact h.clearAll
    · exact h

theorem State.Ready.pipelineStep_sound : (pipelineStep s).Sound := by
  unfold pipelineStep
  split
  · exact Run.sound_done h
  · exact h.nextGbt_keeps.bind fun _ _ hu hr => hu.stepOn_sound hr

/-! ### The bit container -/

theorem State.Ready.reading_sound (hd : Handle) {k : Container → Run Answer} (hk : ∀ c, c.WF → (k c).Sound) :
    (reading s hd k).Sound := by
  cases hc : s.resolveR hd with
  | none => rw [reading_none hc]; exact h.raise _ _
  | some c =>
    rw [reading_some hc]
    refine hk c ?_
    by_cases he : hd.toNat < 40
    · rw [s.resolveR_elink ⟨hd.toNat, he⟩ rfl] at hc
      obtain rfl := Option.some.inj hc
      exact (h.elink _).bitsWF
    · rw [State.resolveR, dif_neg he, Option.map_eq_some_iff] at hc
      obtain ⟨⟨j, c⟩, hw, rfl⟩ := hc
      exact (h.inv.scratchSound c (List.mem_of_getElem? (State.resolveW_eq_some.1 hw).2.2)).1

theorem State.Ready.writing_sound (hd : Handle) {k : Nat → Container → Run Answer}
    (hk : ∀ j c, c.WF → 1 ≤ c.cap → (k j c).Sound) : (writing s hd k).Sound := by
  cases hc : s.resolveW hd with
  | none => rw [writing_none hc]; exact h.raise _ _
  | some p =>
    obtain ⟨j, c⟩ := p
    rw [writing_some hc]
    obtain ⟨-, -, hj⟩ := State.resolveW_eq_some.1 hc
    obtain ⟨hw, hcap⟩ := h.inv.scratchSound c (List.mem_of_getElem? hj)
    exact hk j c hw hcap

/-- A write that keeps the canonical form of a container with room for it keeps the invariant, `w` being what it writes. -/
theorem State.Ready.growAndWrite_sound {c : Container} (hw : c.WF) (hc : 1 ≤ c.cap) (j need : Nat) {w : Container → Container}
    (hwrite : ∀ c', c'.WF → need ≤ c'.cap → (w c').WF ∧ (w c').cap = c'.cap) : (growAndWrite s j c need w).Sound := by
  obtain ⟨c', hg, hrun⟩ | ⟨-, hrun⟩ := growAndWrite_cases s j c need w
  · obtain ⟨-, -, hroom, hcap, -⟩ := Container.grow_eq_some hg
    obtain ⟨hw', hcap'⟩ := hwrite c' (Container.grow_WF hg hw) hroom
    rw [hrun]
    exact Run.sound_done ⟨h.inv.withScratch hw' (hcap'.symm ▸ hc.trans hcap), h.unfaulted⟩
  · rw [hrun]
    exact h.raise _ _

theorem State.Ready.setBit_sound {c : Container} (hw : c.WF) (hc : 1 ≤ c.cap) (j : Nat) (i : Int) (v : Bool) :
    (setBit s j c i v).Sound :=
  h.guarded _ fun _ => h.growAndWrite_sound hw hc j _ fun _ hw' hroom => ⟨Container.set_WF hw' v hroom, rfl⟩

theorem State.Ready.replaceContent_sound {c : Container} (hw : c.WF) (hc : 1 ≤ c.cap) (j n : Nat) (f : Nat → Bool) :
    (replaceContent s j c n f).Sound :=
  h.growAndWrite_sound hw hc j _ fun _ _ hroom => ⟨Container.fill_WF _ f hroom, rfl⟩

theorem State.Ready.setRange_sound (w : Nat) (hd : Handle) (a b : Int) (x : BitVec w) : (setRange w hd a b x s).Sound :=
  h.writing_sound hd fun j _ hw hc => h.guarded _ fun hrange => h.guarded _ fun _ =>
    h.growAndWrite_sound hw hc j _ fun _ hw' hroom => ⟨Container.write_WF hw' _ (by omega), rfl⟩

theorem State.Ready.uintRange_sound (w : Nat) (hd : Handle) (a b : Int) (k : BitVec w → Results) :
    (uintRange w hd a b s k).Sound :=
  h.reading_sound hd fun _ _ => h.guarded _ fun _ => h.guarded _ fun _ => Run.sound_done h

theorem State.Ready.fromUint_sound (w : Nat) (hd : Handle) (x : BitVec w) : (fromUint w hd x s).Sound :=
  h.writing_sound hd fun j _ hw hc => h.replaceContent_sound hw hc j w _

end

/-! ### Every command of the host -/

theorem State.Inv.command {act : State → Host.Outcome State Fault Refusal} {body : State → Run Answer}
    (hact : ∀ u, act u = command u body) (hbody : ∀ u : State, u.Ready → (body u).Sound) {s t : State} (h : s.Inv)
    (ht : act s = .next t) : t.Inv := by
  rw [hact] at ht
  obtain ⟨t', ht', hcases⟩ := command_cases s body
  obtain rfl : t' = t := Host.Outcome.next.inj (ht'.symm.trans ht)
  obtain ⟨c, -, rfl⟩ | ⟨hf, a, u, hb, rfl⟩ | ⟨hf, c, u, hb, rfl⟩ := hcases
  · exact h.withResult _
  · have hu := hbody s ⟨h, hf⟩
    rw [hb] at hu
    exact hu.1.inv.withResult a
  · have hu := hbody s ⟨h, hf⟩
    rw [hb] at hu
    exact State.Inv.withResult hu _

theorem State.Inv.exec {i : Instr} (hi : i.IsCommand) {s t : State} (h : s.Inv) (ht : exec i s = .next t) : t.Inv := by
  cases i
  case sysStatus =>
    obtain rfl := Host.Outcome.next.inj ht
    exact h.withResult _
  case sysReset src =>
    obtain rfl := Host.Outcome.next.inj ht
    exact (h.restart src).withResult _
  case sdhHeartbeat | sdhDataTruncated | sdhSync | sdhDataTruncatedTriggerTooEarly | sdhData | sdhDataNumwords |
      sdhDataTriggerTooEarly | sdhDataTriggerTooEarlyNumwords | sdhSyncPatternHuntMatch => simp [Instr.IsCommand, encode] at hi
  all_goals refine h.command (act := Machine.exec _) (fun _ => rfl) (fun u hu => ?_) ht
  case bcGet hd n => exact hu.reading_sound hd fun _ _ => hu.guarded _ fun _ => Run.sound_done hu
  case bcSet hd n v => exact hu.writing_sound hd fun _ _ hw hc => hu.setBit_sound hw hc ..
  case bcAppend hd v => exact hu.writing_sound hd fun _ _ hw hc => hu.setBit_sound hw hc ..
  case bcClear hd =>
    exact hu.writing_sound hd fun _ c _ hc => Run.sound_done ⟨hu.inv.withScratch c.clear_WF hc, hu.unfaulted⟩
  case bcSetr8 hd a b x => exact hu.setRange_sound 8 hd a b x
  case bcSetr16 hd a b x => exact hu.setRange_sound 16 hd a b x
  case bcSetr32 hd a b x => exact hu.setRange_sound 32 hd a b x
  case bcSetr64 hd a b x => exact hu.setRange_sound 64 hd a b x
  case bcUint8 hd a b => exact hu.uintRange_sound 8 hd a b _
  case bcUint16 hd a b => exact hu.uintRange_sound 16 hd a b _
  case bcUint32 hd a b => exact hu.uintRange_sound 32 hd a b _
  case bcUint64 hd a b => exact hu.uintRange_sound 64 hd a b _
  case bcSetbytes hd bs => exact hu.writing_sound hd fun _ _ hw hc => hu.replaceContent_sound hw hc ..
  case bcSearch hd p =>
    refine hu.reading_sound hd fun c _ => hu.reading_sound p fun q _ => hu.guarded _ fun _ => ?_
    split
    · exact Run.sound_done hu
    · exact Run.sound_done hu
  case bcLast d hd n =>
    exact hu.reading_sound hd fun c hw => hu.writing_sound d fun j _ hwt hct => hu.guarded _ fun hn =>
      hu.growAndWrite_sound hwt hct j _ fun t _ hroom => ⟨Container.takeLast_WF t hw (by omega) hroom, rfl⟩
  case bcPrune hd n =>
    exact hu.writing_sound hd fun _ _ hw hc => hu.guarded _ fun _ =>
      Run.sound_done ⟨hu.inv.withScratch (Container.prune_WF hw _) hc, hu.unfaulted⟩
  case bcEqual hd p => exact hu.reading_sound hd fun _ _ => hu.reading_sound p fun _ _ => Run.sound_done hu
  case bcCount hd => exact hu.reading_sound hd fun _ _ => Run.sound_done hu
  case bcLen hd => exact hu.reading_sound hd fun _ _ => Run.sound_done hu
  case bcStrl hd => exact hu.reading_sound hd fun _ _ => Run.sound_done hu
  case bcStrr hd => exact hu.reading_sound hd fun _ _ => Run.sound_done hu
  case bcFromstr hd cs =>
    refine hu.writing_sound hd fun _ _ hw hc => ?_
    split
    · exact hu.replaceContent_sound hw hc ..
    · exact hu.raise _ _
  case bcFromu8 hd x => exact hu.fromUint_sound 8 hd x
  case bcFromu16 hd x => exact hu.fromUint_sound 16 hd x
  case bcFromu32 hd x => exact hu.fromUint_sound 32 hd x
  case bcFromu64 hd x => exact hu.fromUint_sound 64 hd x
  case rdNextevent => exact hu.nextEvent_keeps.sound.map _
  case rdNextgbt => exact hu.nextGbt_keeps.sound.map _
  case dspWord g => exact (hu.dispatchWord_sound g).map _
  case dspClearall => exact Run.sound_done hu.clearAll
  case elAppend e v0 v1 => exact (hu.append_sound e v0 v1).map _
  case elPush e v => exact (hu.push_sound e v).map _
  case elForceclear e => exact Run.sound_done (hu.forceClear e)
  case elIsempty e => exact Run.sound_done hu
  case elRead e => exact Run.sound_done hu
  case plStep => exact hu.pipelineStep_sound
  case cfgSetmask m => exact Run.sound_done ⟨hu.inv.withMask m, hu.unfaulted⟩
  case cfgGetmask => exact Run.sound_done hu

theorem State.Inv.rejected {s t : State} (h : s.Inv) (ht : rejected s = .next t) : t.Inv :=
  h.command (act := Machine.rejected) (fun _ => rfl) (fun _ hu => hu.raise _ _) ht

end Sys2Proof.Machine
end

section
/-! The statements of 10_state.md: the reset state is sound, every step keeps it so, and the output queue grows at its tail. -/

namespace Sys2Proof.Machine

/-- Settles O17: every reset state is sound, and the chip's parameters are in their ranges. -/
theorem resetIsSound : Obligations.ResetIsSound :=
  ⟨.resetWith Config.chip_valid [], fun _ src hcfg => .resetWith hcfg src⟩

/-- Settles O18, by the four things a step can do: the host's next action is gone from `pending`, and its command, if it is one,
decodes to no header row. -/
theorem stepKeepsInvariant : Obligations.StepKeepsInvariant := by
  intro s t h ht
  obtain ⟨-, hs⟩ | ⟨raw, rest, i, -, hd, hs⟩ | ⟨raw, rest, err, -, -, hs⟩ | ⟨rest, -, hs⟩ := step_cases s
  · obtain rfl := Host.Outcome.next.inj (hs.symm.trans ht)
    exact h
  · exact (h.withPending rest).exec (decode_command_isCommand hd) (hs.symm.trans ht)
  · exact (h.withPending rest).rejected (hs.symm.trans ht)
  · obtain rfl := Host.Outcome.next.inj (hs.symm.trans ht)
    exact (h.withPending rest).drainHead

/-- Settles O20: the output queue is one of the things `Extends` says of every command but `SYS.RESET`. -/
theorem outputGrowsAtTail : Obligations.OutputGrowsAtTail := by
  intro s t i hi ht
  obtain ⟨t', ht', -, -, -, hdrained, hout⟩ := exec_extends hi s
  obtain rfl : t' = t := Host.Outcome.next.inj (ht'.symm.trans ht)
  exact ⟨hdrained, hout.imp fun _ h => h.symm⟩

end Sys2Proof.Machine
end

section
/-! The operand fields of a command (30_encoding.md R77, R78, R80): how a field of each kind is read and written, and that what a
kind admits is exactly what is written for a value the handle rule allows. -/

namespace Sys2Proof

open Sys2Proof.Claims

/-! ### Which numbers and texts a kind admits -/

/-- The numbers written for the `w`-bit values of a property: those of `0 .. 2^w - 1` that have it. -/
theorem Operand.exists_ofBits_eq_int {w : Nat} {n : Int} {P : Nat → Prop} :
    (∃ x : BitVec w, Operand.ofBits x = .int n ∧ P x.toNat) ↔ 0 ≤ n ∧ n < 2 ^ w ∧ P n.toNat := by
  simp only [Operand.ofBits, Operand.int.injEq]
  constructor
  · rintro ⟨x, rfl, hx⟩
    exact ⟨Int.natCast_nonneg _, by exact_mod_cast x.isLt, hx⟩
  · rintro ⟨h0, hlt, hn⟩
    lift n to Nat using h0
    have hlt : n < 2 ^ w := by exact_mod_cast hlt
    exact ⟨BitVec.ofNat w n, by simp [Nat.mod_eq_of_lt hlt], by simpa [Nat.mod_eq_of_lt hlt] using hn⟩

/-- A reading position admits what is written for a readable handle (30_encoding.md R78). -/
theorem admits_readHandle_iff {cfg : Config} {o : Operand} :
    Kind.readHandle.Admits cfg.numScratch o ↔ ∃ h : Handle, Operand.ofBits h = o ∧ h.readable cfg = true := by
  cases o with
  | int n =>
    simp only [Handle.readable, Handle.isElink, Handle.isScratch, Bool.or_eq_true, decide_eq_true_eq]
    rw [Operand.exists_ofBits_eq_int (P := fun m => m < 40 ∨ 64 ≤ m ∧ m < 64 + cfg.numScratch)]
    simp only [Kind.Admits]
    omega
  | bytes _ | str _ => simp [Kind.Admits, Operand.ofBits]

/-- A writing position admits what is written for a scratch container's handle (30_encoding.md R78). -/
theorem admits_writeHandle_iff {cfg : Config} {o : Operand} :
    Kind.writeHandle.Admits cfg.numScratch o ↔ ∃ h : Handle, Operand.ofBits h = o ∧ h.isScratch cfg = true := by
  cases o with
  | int n =>
    simp only [Handle.isScratch, decide_eq_true_eq]
    rw [Operand.exists_ofBits_eq_int (P := fun m => 64 ≤ m ∧ m < 64 + cfg.numScratch)]
    simp only [Kind.Admits]
    omega
  | bytes _ | str _ => simp [Kind.Admits, Operand.ofBits]

theorem admits_uint_iff {w k : Nat} {o : Operand} : (Kind.uint w).Admits k o ↔ ∃ x : BitVec w, Operand.ofBits x = o := by
  cases o with
  | int n => simpa [Kind.Admits] using (Operand.exists_ofBits_eq_int (w := w) (n := n) (P := fun _ => True)).symm
  | bytes _ | str _ => simp [Kind.Admits, Operand.ofBits]

theorem admits_elink_iff {k : Nat} {o : Operand} : Kind.elink.Admits k o ↔ ∃ e : ElinkId, Operand.ofElink e = o := by
  cases o with
  | int n =>
    simp only [Kind.Admits, Operand.ofElink, Operand.int.injEq]
    constructor
    · rintro ⟨h0, hlt⟩
      exact ⟨⟨n.toNat, by omega⟩, Int.toNat_of_nonneg h0⟩
    · rintro ⟨e, rfl⟩
      omega
  | bytes _ | str _ => simp [Kind.Admits, Operand.ofElink]

theorem admits_bit_iff {k : Nat} {o : Operand} : Kind.bit.Admits k o ↔ ∃ v, Operand.ofBit v = o := by
  cases o with
  | int n => simp [Kind.Admits, Operand.ofBit, eq_comm]
  | bytes _ | str _ => simp [Kind.Admits, Operand.ofBit]

/-! ### The fields -/

/-- An operand field of a command: its kind, how the decoder reads it and the encoder writes it, and the values the handle rule
R78 allows in it (under `cfg`; every value where the field is no handle). -/
structure OperandField (cfg : Config) (α : Type) where
  kind : Kind
  read : Operand → Except DecodeError α
  write : α → Operand
  allowed : α → Bool := fun _ => true
  write_of_read : ∀ {o x}, read o = .ok x → write x = o
  read_write : ∀ x, read (write x) = .ok x
  admits_iff : ∀ {o}, kind.Admits cfg.numScratch o ↔ ∃ x, write x = o ∧ allowed x = true

namespace OperandField

variable (cfg : Config)

/-- A handle in a reading position. -/
@[simps] def readHandle : OperandField cfg Handle where
  kind := .readHandle
  read := Operand.asHandle
  write := Operand.ofBits
  allowed := Handle.readable cfg
  write_of_read := Operand.ofBits_of_asUint
  read_write := Operand.asHandle_ofBits
  admits_iff := admits_readHandle_iff

/-- A handle in a writing position. -/
@[simps] def writeHandle : OperandField cfg Handle where
  kind := .writeHandle
  read := Operand.asHandle
  write := Operand.ofBits
  allowed := Handle.isScratch cfg
  write_of_read := Operand.ofBits_of_asUint
  read_write := Operand.asHandle_ofBits
  admits_iff := admits_writeHandle_iff

/-- A number of `w` bits, any other number being the error `err`. -/
@[simps] def uint (w : Nat) (err : DecodeError) : OperandField cfg (BitVec w) where
  kind := .uint w
  read := Operand.asUint w err
  write := Operand.ofBits
  write_of_read := Operand.ofBits_of_asUint
  read_write := Operand.asUint_ofBits err
  admits_iff := by simp [admits_uint_iff]

@[simps] def integer : OperandField cfg Int where
  kind := .integer
  read := Operand.asInt
  write := Operand.int
  write_of_read := Operand.int_of_asInt
  read_write _ := rfl
  admits_iff {o} := by cases o <;> simp [Kind.Admits]

@[simps] def bit : OperandField cfg Bool where
  kind := .bit
  read := Operand.asBit
  write := Operand.ofBit
  write_of_read := Operand.ofBit_of_asBit
  read_write := Operand.asBit_ofBit
  admits_iff := by simp [admits_bit_iff]

@[simps] def elink : OperandField cfg ElinkId where
  kind := .elink
  read := Operand.asElink
  write := Operand.ofElink
  write_of_read := Operand.ofElink_of_asElink
  read_write := Operand.asElink_ofElink
  admits_iff := by simp [admits_elink_iff]

@[simps] def bytes : OperandField cfg (List Byte) where
  kind := .bytes
  read := Operand.asBytes
  write := Operand.bytes
  write_of_read := Operand.bytes_of_asBytes
  read_write _ := rfl
  admits_iff {o} := by cases o <;> simp [Kind.Admits]

@[simps] def string : OperandField cfg (List Char) where
  kind := .string
  read := Operand.asStr
  write := Operand.str
  write_of_read := Operand.str_of_asStr
  read_write _ := rfl
  admits_iff {o} := by cases o <;> simp [Kind.Admits]

end OperandField

end Sys2Proof
end

section
/-! The command map line by line (30_encoding.md R79): each listed opcode reads the operand fields of its kinds, its instruction
is encoded as it was read, and the operands its kinds admit are those that read as a well-formed instruction (R80). -/

namespace Sys2Proof

open Sys2Proof.Claims

/-- A line of the command map, the opcode `op` with operands of the kinds `ks`: what it decodes is encoded as the same command,
and operands of those kinds are exactly the operands of a well-formed instruction. -/
def IsLine (cfg : Config) (op : BitVec 8) (ks : List Kind) : Prop :=
  ∀ l, (∀ i, decodeCommand ⟨op, l⟩ = .ok i → encode i = .command ⟨op, l⟩) ∧
    (List.Forall₂ (Kind.Admits cfg.numScratch) ks l ↔ ∃ i, decodeCommand ⟨op, l⟩ = .ok i ∧ i.wellFormed cfg = true)

section
variable {cfg : Config} {op : BitVec 8} {α β γ δ : Type} (F : OperandField cfg α) (G : OperandField cfg β)
  (H : OperandField cfg γ) (J : OperandField cfg δ)

theorem isLine_of_parse0 {k : Instr} (hdec : ∀ l, decodeCommand ⟨op, l⟩ = parse0 k l) (henc : encode k = .command ⟨op, []⟩)
    (hwf : k.wellFormed cfg = true) : IsLine cfg op [] := by
  intro l
  rw [hdec]
  refine ⟨fun i h => ?_, fun h => ?_, ?_⟩
  · obtain ⟨rfl, rfl⟩ := parse0_ok h
    exact henc
  · obtain _ | _ := h
    exact ⟨k, rfl, hwf⟩
  · rintro ⟨i, hi, -⟩
    obtain ⟨rfl, -⟩ := parse0_ok hi
    exact .nil

theorem isLine_of_parse1 {k : α → Instr} (hdec : ∀ l, decodeCommand ⟨op, l⟩ = parse1 F.read k l)
    (henc : ∀ x, encode (k x) = .command ⟨op, [F.write x]⟩) (hwf : ∀ x, (k x).wellFormed cfg = F.allowed x) :
    IsLine cfg op [F.kind] := by
  intro l
  rw [hdec]
  refine ⟨fun i h => ?_, fun h => ?_, ?_⟩
  · obtain ⟨a, x, rfl, ha, rfl⟩ := parse1_ok h
    rw [henc, F.write_of_read ha]
  · obtain _ | ⟨ha, _ | _⟩ := h
    obtain ⟨x, rfl, hx⟩ := F.admits_iff.1 ha
    exact ⟨k x, parse1_eq (F.read_write x), (hwf x).trans hx⟩
  · rintro ⟨i, hi, hw⟩
    obtain ⟨a, x, rfl, ha, rfl⟩ := parse1_ok hi
    exact .cons (F.admits_iff.2 ⟨x, F.write_of_read ha, (hwf x).symm.trans hw⟩) .nil

theorem isLine_of_parse2 {k : α → β → Instr}
    (hdec : ∀ l, decodeCommand ⟨op, l⟩ = parse2 F.read G.read k l)
    (henc : ∀ x y, encode (k x y) = .command ⟨op, [F.write x, G.write y]⟩)
    (hwf : ∀ x y, (k x y).wellFormed cfg = (F.allowed x && G.allowed y)) : IsLine cfg op [F.kind, G.kind] := by
  intro l
  rw [hdec]
  refine ⟨fun i h => ?_, fun h => ?_, ?_⟩
  · obtain ⟨a, b, x, y, rfl, ha, hb, rfl⟩ := parse2_ok h
    rw [henc, F.write_of_read ha, G.write_of_read hb]
  · obtain _ | ⟨ha, _ | ⟨hb, _ | _⟩⟩ := h
    obtain ⟨x, rfl, hx⟩ := F.admits_iff.1 ha
    obtain ⟨y, rfl, hy⟩ := G.admits_iff.1 hb
    exact ⟨k x y, parse2_eq (F.read_write x) (G.read_write y), by simp [hwf, hx, hy]⟩
  · rintro ⟨i, hi, hw⟩
    obtain ⟨a, b, x, y, rfl, ha, hb, rfl⟩ := parse2_ok hi
    simp only [hwf, Bool.and_eq_true] at hw
    obtain ⟨hx, hy⟩ := hw
    exact .cons (F.admits_iff.2 ⟨x, F.write_of_read ha, hx⟩) (.cons (G.admits_iff.2 ⟨y, G.write_of_read hb, hy⟩) .nil)

theorem isLine_of_parse3 {k : α → β → γ → Instr}
    (hdec : ∀ l, decodeCommand ⟨op, l⟩ = parse3 F.read G.read H.read k l)
    (henc : ∀ x y z, encode (k x y z) = .command ⟨op, [F.write x, G.write y, H.write z]⟩)
    (hwf : ∀ x y z, (k x y z).wellFormed cfg = (F.allowed x && G.allowed y && H.allowed z)) :
    IsLine cfg op [F.kind, G.kind, H.kind] := by
  intro l
  rw [hdec]
  refine ⟨fun i h => ?_, fun h => ?_, ?_⟩
  · obtain ⟨a, b, c, x, y, z, rfl, ha, hb, hc, rfl⟩ := parse3_ok h
    rw [henc, F.write_of_read ha, G.write_of_read hb, H.write_of_read hc]
  · obtain _ | ⟨ha, _ | ⟨hb, _ | ⟨hc, _ | _⟩⟩⟩ := h
    obtain ⟨x, rfl, hx⟩ := F.admits_iff.1 ha
    obtain ⟨y, rfl, hy⟩ := G.admits_iff.1 hb
    obtain ⟨z, rfl, hz⟩ := H.admits_iff.1 hc
    exact ⟨k x y z, parse3_eq (F.read_write x) (G.read_write y) (H.read_write z), by simp [hwf, hx, hy, hz]⟩
  · rintro ⟨i, hi, hw⟩
    obtain ⟨a, b, c, x, y, z, rfl, ha, hb, hc, rfl⟩ := parse3_ok hi
    simp only [hwf, Bool.and_eq_true] at hw
    obtain ⟨⟨hx, hy⟩, hz⟩ := hw
    exact .cons (F.admits_iff.2 ⟨x, F.write_of_read ha, hx⟩) (.cons (G.admits_iff.2 ⟨y, G.write_of_read hb, hy⟩)
      (.cons (H.admits_iff.2 ⟨z, H.write_of_read hc, hz⟩) .nil))

theorem isLine_of_parse4 {k : α → β → γ → δ → Instr}
    (hdec : ∀ l, decodeCommand ⟨op, l⟩ = parse4 F.read G.read H.read J.read k l)
    (henc : ∀ x y z w, encode (k x y z w) = .command ⟨op, [F.write x, G.write y, H.write z, J.write w]⟩)
    (hwf : ∀ x y z w, (k x y z w).wellFormed cfg = (F.allowed x && G.allowed y && H.allowed z && J.allowed w)) :
    IsLine cfg op [F.kind, G.kind, H.kind, J.kind] := by
  intro l
  rw [hdec]
  refine ⟨fun i h => ?_, fun h => ?_, ?_⟩
  · obtain ⟨a, b, c, d, x, y, z, w, rfl, ha, hb, hc, hd, rfl⟩ := parse4_ok h
    rw [henc, F.write_of_read ha, G.write_of_read hb, H.write_of_read hc, J.write_of_read hd]
  · obtain _ | ⟨ha, _ | ⟨hb, _ | ⟨hc, _ | ⟨hd, _ | _⟩⟩⟩⟩ := h
    obtain ⟨x, rfl, hx⟩ := F.admits_iff.1 ha
    obtain ⟨y, rfl, hy⟩ := G.admits_iff.1 hb
    obtain ⟨z, rfl, hz⟩ := H.admits_iff.1 hc
    obtain ⟨w, rfl, hw⟩ := J.admits_iff.1 hd
    exact ⟨k x y z w, parse4_eq (F.read_write x) (G.read_write y) (H.read_write z) (J.read_write w), by
      simp [hwf, hx, hy, hz, hw]⟩
  · rintro ⟨i, hi, hw⟩
    obtain ⟨a, b, c, d, x, y, z, w, rfl, ha, hb, hc, hd, rfl⟩ := parse4_ok hi
    simp only [hwf, Bool.and_eq_true] at hw
    obtain ⟨⟨⟨hx, hy⟩, hz⟩, hw⟩ := hw
    exact .cons (F.admits_iff.2 ⟨x, F.write_of_read ha, hx⟩) (.cons (G.admits_iff.2 ⟨y, G.write_of_read hb, hy⟩)
      (.cons (H.admits_iff.2 ⟨z, H.write_of_read hc, hz⟩) (.cons (J.admits_iff.2 ⟨w, J.write_of_read hd, hw⟩) .nil)))

end

/-! ### Lines that differ in width or instruction only -/

section
variable {cfg : Config} {op : BitVec 8}

/-- `BC.SETR<W>`. -/
theorem isLine_setr {w : Nat} {k : Handle → Int → Int → BitVec w → Instr}
    (hdec : ∀ l, decodeCommand ⟨op, l⟩ = parse4 Operand.asHandle Operand.asInt Operand.asInt (Operand.asValue w) k l)
    (henc : ∀ h a b x, encode (k h a b x) = .command ⟨op, [.ofBits h, .int a, .int b, .ofBits x]⟩)
    (hwf : ∀ h a b x, (k h a b x).wellFormed cfg = h.isScratch cfg) :
    IsLine cfg op [.writeHandle, .integer, .integer, .uint w] :=
  isLine_of_parse4 (.writeHandle cfg) (.integer cfg) (.integer cfg) (.uint cfg w .valueRange) hdec henc (by simp [hwf])

/-- `BC.UINT<W>`. -/
theorem isLine_uint {k : Handle → Int → Int → Instr}
    (hdec : ∀ l, decodeCommand ⟨op, l⟩ = parse3 Operand.asHandle Operand.asInt Operand.asInt k l)
    (henc : ∀ h a b, encode (k h a b) = .command ⟨op, [.ofBits h, .int a, .int b]⟩)
    (hwf : ∀ h a b, (k h a b).wellFormed cfg = h.readable cfg) : IsLine cfg op [.readHandle, .integer, .integer] :=
  isLine_of_parse3 (.readHandle cfg) (.integer cfg) (.integer cfg) hdec henc (by simp [hwf])

/-- `BC.FROMU<W>`. -/
theorem isLine_fromu {w : Nat} {k : Handle → BitVec w → Instr}
    (hdec : ∀ l, decodeCommand ⟨op, l⟩ = parse2 Operand.asHandle (Operand.asValue w) k l)
    (henc : ∀ h x, encode (k h x) = .command ⟨op, [.ofBits h, .ofBits x]⟩)
    (hwf : ∀ h x, (k h x).wellFormed cfg = h.isScratch cfg) : IsLine cfg op [.writeHandle, .uint w] :=
  isLine_of_parse2 (.writeHandle cfg) (.uint cfg w .valueRange) hdec henc (by simp [hwf])

end

/-- Each opcode the map lists is a line of the decoder and the encoder, of the kinds the map gives it (30_encoding.md R79). -/
theorem isLine_of_operandKinds (cfg : Config) {op : BitVec 8} {ks : List Kind} (h : operandKinds op.toNat = some ks) :
    IsLine cfg op ks := by
  generalize hn : op.toNat = n at h
  obtain rfl : op = BitVec.ofNat 8 n := by simp [← hn]
  clear hn
  unfold operandKinds at h
  split at h <;> cases h
  · exact isLine_of_parse2 (.readHandle cfg) (.integer cfg) decodeCommand_10 (fun _ _ => rfl) (by simp [Instr.wellFormed])
  · exact isLine_of_parse3 (.writeHandle cfg) (.integer cfg) (.bit cfg) decodeCommand_11 (fun _ _ _ => rfl)
      (by simp [Instr.wellFormed])
  · exact isLine_of_parse2 (.writeHandle cfg) (.bit cfg) decodeCommand_12 (fun _ _ => rfl) (by simp [Instr.wellFormed])
  · exact isLine_of_parse1 (.writeHandle cfg) decodeCommand_13 (fun _ => rfl) (fun _ => rfl)
  · exact isLine_setr decodeCommand_14 (fun _ _ _ _ => rfl) (fun _ _ _ _ => rfl)
  · exact isLine_setr decodeCommand_15 (fun _ _ _ _ => rfl) (fun _ _ _ _ => rfl)
  · exact isLine_setr decodeCommand_16 (fun _ _ _ _ => rfl) (fun _ _ _ _ => rfl)
  · exact isLine_setr decodeCommand_17 (fun _ _ _ _ => rfl) (fun _ _ _ _ => rfl)
  · exact isLine_uint decodeCommand_18 (fun _ _ _ => rfl) (fun _ _ _ => rfl)
  · exact isLine_uint decodeCommand_19 (fun _ _ _ => rfl) (fun _ _ _ => rfl)
  · exact isLine_uint decodeCommand_1A (fun _ _ _ => rfl) (fun _ _ _ => rfl)
  · exact isLine_uint decodeCommand_1B (fun _ _ _ => rfl) (fun _ _ _ => rfl)
  · exact isLine_of_parse2 (.writeHandle cfg) (.bytes cfg) decodeCommand_1C (fun _ _ => rfl) (by simp [Instr.wellFormed])
  · exact isLine_of_parse2 (.readHandle cfg) (.readHandle cfg) decodeCommand_1D (fun _ _ => rfl) (fun _ _ => rfl)
  · exact isLine_of_parse3 (.writeHandle cfg) (.readHandle cfg) (.integer cfg) decodeCommand_1E (fun _ _ _ => rfl)
      (by simp [Instr.wellFormed])
  · exact isLine_of_parse2 (.writeHandle cfg) (.integer cfg) decodeCommand_1F (fun _ _ => rfl) (by simp [Instr.wellFormed])
  · exact isLine_of_parse2 (.readHandle cfg) (.readHandle cfg) decodeCommand_20 (fun _ _ => rfl) (fun _ _ => rfl)
  · exact isLine_of_parse1 (.readHandle cfg) decodeCommand_21 (fun _ => rfl) (fun _ => rfl)
  · exact isLine_of_parse1 (.readHandle cfg) decodeCommand_22 (fun _ => rfl) (fun _ => rfl)
  · exact isLine_of_parse1 (.readHandle cfg) decodeCommand_23 (fun _ => rfl) (fun _ => rfl)
  · exact isLine_of_parse1 (.readHandle cfg) decodeCommand_24 (fun _ => rfl) (fun _ => rfl)
  · exact isLine_of_parse2 (.writeHandle cfg) (.string cfg) decodeCommand_25 (fun _ _ => rfl) (by simp [Instr.wellFormed])
  · exact isLine_fromu decodeCommand_26 (fun _ _ => rfl) (fun _ _ => rfl)
  · exact isLine_fromu decodeCommand_27 (fun _ _ => rfl) (fun _ _ => rfl)
  · exact isLine_fromu decodeCommand_28 (fun _ _ => rfl) (fun _ _ => rfl)
  · exact isLine_fromu decodeCommand_29 (fun _ _ => rfl) (fun _ _ => rfl)
  · exact isLine_of_parse0 decodeCommand_30 rfl rfl
  · exact isLine_of_parse0 decodeCommand_31 rfl rfl
  · exact isLine_of_parse1 (.bytes cfg) decodeCommand_40 (fun _ => rfl) (fun _ => rfl)
  · exact isLine_of_parse0 decodeCommand_41 rfl rfl
  · exact isLine_of_parse3 (.elink cfg) (.bit cfg) (.bit cfg) decodeCommand_50 (fun _ _ _ => rfl) (fun _ _ _ => rfl)
  · exact isLine_of_parse2 (.elink cfg) (.bit cfg) decodeCommand_51 (fun _ _ => rfl) (fun _ _ => rfl)
  · exact isLine_of_parse1 (.elink cfg) decodeCommand_52 (fun _ => rfl) (fun _ => rfl)
  · exact isLine_of_parse1 (.elink cfg) decodeCommand_53 (fun _ => rfl) (fun _ => rfl)
  · exact isLine_of_parse1 (.elink cfg) decodeCommand_54 (fun _ => rfl) (fun _ => rfl)
  · exact isLine_of_parse0 decodeCommand_60 rfl rfl
  · exact isLine_of_parse1 (.uint cfg 40 .maskRange) decodeCommand_61 (fun _ => rfl) (fun _ => rfl)
  · exact isLine_of_parse0 decodeCommand_62 rfl rfl
  · exact isLine_of_parse0 decodeCommand_63 rfl rfl
  · exact isLine_of_parse1 (.bytes cfg) decodeCommand_7F (fun _ => rfl) (fun _ => rfl)

/-- An opcode that decodes is listed (30_encoding.md R79, R80). -/
theorem operandKinds_of_decodeCommand_ok {c : RawCommand} {i : Instr} (h : decodeCommand c = .ok i) :
    ∃ ks, operandKinds c.opcode.toNat = some ks := by
  unfold decodeCommand at h
  split at h
  case h_41 => cases h
  all_goals next hop => exact ⟨_, by rw [hop]; rfl⟩

/-- A command that decodes is the encoding of what it decodes to. -/
theorem encode_of_decodeCommand {c : RawCommand} {i : Instr} (h : decodeCommand c = .ok i) : encode i = .command c := by
  obtain ⟨ks, hks⟩ := operandKinds_of_decodeCommand_ok h
  exact (isLine_of_operandKinds Config.chip hks c.operands).1 i h

/-- The legal commands are those that decode to a well-formed instruction (30_encoding.md R78 - R80). -/
theorem legal_iff_decodeCommand (cfg : Config) (c : RawCommand) :
    Legal cfg.numScratch c ↔ ∃ i, decodeCommand c = .ok i ∧ i.wellFormed cfg = true := by
  constructor
  · rintro ⟨ks, hks, hl⟩
    exact (isLine_of_operandKinds cfg hks c.operands).2.1 hl
  · rintro ⟨i, hi, hw⟩
    obtain ⟨ks, hks⟩ := operandKinds_of_decodeCommand_ok hi
    exact ⟨ks, hks, (isLine_of_operandKinds cfg hks c.operands).2.2 ⟨i, hi, hw⟩⟩

end Sys2Proof
end

section
/-! A handle that breaks 30_encoding.md R78 raises `ILLEGAL_COMMAND` and changes nothing else (40_bit_container.md R83): the check
is the first thing every `BC.*` command does. -/

namespace Sys2Proof.Machine

open Sys2Proof.Claims

section
variable {s : State} {h : Handle}

theorem State.resolveW_of_not_isScratch (hh : h.isScratch s.config = false) : s.resolveW h = none := by
  simp only [Handle.isScratch, decide_eq_false_iff_not] at hh
  simp [State.resolveW, State.scratchIndex, hh]

theorem State.resolveR_of_not_readable (hh : h.readable s.config = false) : s.resolveR h = none := by
  simp only [Handle.readable, Handle.isElink, Bool.or_eq_false_iff, decide_eq_false_iff_not] at hh
  obtain ⟨he, hsc⟩ := hh
  simp [State.resolveR, he, State.resolveW_of_not_isScratch hsc]

/-- A reading that goes on to raise `ILLEGAL_COMMAND` raises it whether or not its own handle is allowed. -/
theorem reading_raise (s : State) (h : Handle) : (reading s h fun _ => raise .illegalCommand s) = raise .illegalCommand s := by
  unfold reading
  split <;> rfl

/-- A body that raises a fatal before it writes. -/
theorem command_raise (hs : s.fault = none) {body : State → Run Answer} {c : FatalCode} (hb : body s = raise c s) :
    command s body = raises s c := by
  rw [command_of_unfaulted hs, hb]
  rfl

variable {i : Instr}

theorem exec_of_reading_illegal {k : State → Container → Run Answer}
    (hx : ∀ s, exec i s = command s fun s => reading s h (k s)) (hs : s.fault = none) (hh : h.readable s.config = false) :
    exec i s = raises s .illegalCommand :=
  (hx s).trans (command_raise hs (reading_none (State.resolveR_of_not_readable hh) _))

theorem exec_of_writing_illegal {k : State → Nat → Container → Run Answer}
    (hx : ∀ s, exec i s = command s fun s => writing s h (k s)) (hs : s.fault = none) (hh : h.isScratch s.config = false) :
    exec i s = raises s .illegalCommand :=
  (hx s).trans (command_raise hs (writing_none (State.resolveW_of_not_isScratch hh) _))

/-- The second of two reading handles is checked after the first, with the same outcome. -/
theorem exec_of_reading_reading_illegal {p : Handle} {k : State → Container → Container → Run Answer}
    (hx : ∀ s, exec i s = command s fun s => reading s h fun c => reading s p (k s c)) (hs : s.fault = none)
    (hh : (h.readable s.config && p.readable s.config) = false) : exec i s = raises s .illegalCommand := by
  obtain hh | hp := Bool.and_eq_false_iff.1 hh
  · exact exec_of_reading_illegal hx hs hh
  · refine (hx s).trans (command_raise hs ?_)
    simp only [reading_none (State.resolveR_of_not_readable hp), reading_raise]

/-- `BC.LAST` checks the handle it reads before the one it writes, with the same outcome. -/
theorem exec_of_reading_writing_illegal {d : Handle} {k : State → Container → Nat → Container → Run Answer}
    (hx : ∀ s, exec i s = command s fun s => reading s h fun c => writing s d (k s c)) (hs : s.fault = none)
    (hh : (d.isScratch s.config && h.readable s.config) = false) : exec i s = raises s .illegalCommand := by
  obtain hd | hh := Bool.and_eq_false_iff.1 hh
  · refine (hx s).trans (command_raise hs ?_)
    simp only [writing_none (State.resolveW_of_not_isScratch hd), reading_raise]
  · exact exec_of_reading_illegal hx hs hh

end

/-- An ill-formed instruction raises `ILLEGAL_COMMAND` and changes nothing else (30_encoding.md R78, R80). -/
theorem exec_of_illformed {i : Instr} {s : State} (hs : s.fault = none) (hi : i.wellFormed s.config = false) :
    exec i s = raises s .illegalCommand := by
  cases i
  case bcGet | bcUint8 | bcUint16 | bcUint32 | bcUint64 | bcCount | bcLen | bcStrl | bcStrr =>
    exact exec_of_reading_illegal (fun _ => rfl) hs hi
  case bcSet | bcAppend | bcClear | bcSetr8 | bcSetr16 | bcSetr32 | bcSetr64 | bcSetbytes | bcPrune | bcFromstr | bcFromu8 |
      bcFromu16 | bcFromu32 | bcFromu64 =>
    exact exec_of_writing_illegal (fun _ => rfl) hs hi
  case bcSearch | bcEqual => exact exec_of_reading_reading_illegal (fun _ => rfl) hs hi
  case bcLast => exact exec_of_reading_writing_illegal (fun _ => rfl) hs hi
  all_goals cases hi

end Sys2Proof.Machine
end

section
/-! The statements of 30_encoding.md: the decoder and the encoder are inverse to each other, the header's fields and its PKT rows,
the sync pattern, and what an illegal command does. -/

namespace Sys2Proof.Machine

open Sys2Proof.Claims

/-- A header word is put together again from the row its PKT selects. -/
theorem encode_decodeHeader (e : ElinkId) (w : Sdh) : encode (decodeHeader e w) = .header e w := by
  have pack_eq {k : Nat} (hk : (Sdh.pkt w).toNat = k) : Sdh.pack (BitVec.ofNat 3 k) (Sdh.fields w) = w :=
    Sdh.pack_of_pkt (by simp [← hk])
  have hlt : (Sdh.pkt w).toNat < 8 := (Sdh.pkt w).isLt
  unfold decodeHeader
  generalize hk : (Sdh.pkt w).toNat = k at hlt
  interval_cases k <;> exact congrArg (Fetched.header e) (pack_eq hk)

/-- An instruction whose encoding is a command decodes as that command's line of the map parses. -/
theorem decode_encode_of_parse {i : Instr} {c : RawCommand} {r : Except DecodeError Instr} (he : encode i = .command c)
    (hd : decodeCommand c = r) (hr : r = .ok i) : decode (encode i) = .ok i := by
  rw [he]
  exact hd.trans hr

open Operand in
/-- Settles O1, constructor by constructor: the operand fields are read back as they were written, and a header's PKT and fields
are those it was packed from. -/
theorem decodeEncodeAgree : Obligations.DecodeEncodeAgree := by
  intro i
  cases i
  case bcGet h _ => exact decode_encode_of_parse rfl (decodeCommand_10 _) (parse2_eq (asHandle_ofBits h) rfl)
  case bcSet h _ v => exact decode_encode_of_parse rfl (decodeCommand_11 _) (parse3_eq (asHandle_ofBits h) rfl (asBit_ofBit v))
  case bcAppend h v => exact decode_encode_of_parse rfl (decodeCommand_12 _) (parse2_eq (asHandle_ofBits h) (asBit_ofBit v))
  case bcClear h => exact decode_encode_of_parse rfl (decodeCommand_13 _) (parse1_eq (asHandle_ofBits h))
  case bcSetr8 h _ _ x =>
    exact decode_encode_of_parse rfl (decodeCommand_14 _) (parse4_eq (asHandle_ofBits h) rfl rfl (asValue_ofBits x))
  case bcSetr16 h _ _ x =>
    exact decode_encode_of_parse rfl (decodeCommand_15 _) (parse4_eq (asHandle_ofBits h) rfl rfl (asValue_ofBits x))
  case bcSetr32 h _ _ x =>
    exact decode_encode_of_parse rfl (decodeCommand_16 _) (parse4_eq (asHandle_ofBits h) rfl rfl (asValue_ofBits x))
  case bcSetr64 h _ _ x =>
    exact decode_encode_of_parse rfl (decodeCommand_17 _) (parse4_eq (asHandle_ofBits h) rfl rfl (asValue_ofBits x))
  case bcUint8 h _ _ => exact decode_encode_of_parse rfl (decodeCommand_18 _) (parse3_eq (asHandle_ofBits h) rfl rfl)
  case bcUint16 h _ _ => exact decode_encode_of_parse rfl (decodeCommand_19 _) (parse3_eq (asHandle_ofBits h) rfl rfl)
  case bcUint32 h _ _ => exact decode_encode_of_parse rfl (decodeCommand_1A _) (parse3_eq (asHandle_ofBits h) rfl rfl)
  case bcUint64 h _ _ => exact decode_encode_of_parse rfl (decodeCommand_1B _) (parse3_eq (asHandle_ofBits h) rfl rfl)
  case bcSetbytes h _ => exact decode_encode_of_parse rfl (decodeCommand_1C _) (parse2_eq (asHandle_ofBits h) rfl)
  case bcSearch h p => exact decode_encode_of_parse rfl (decodeCommand_1D _) (parse2_eq (asHandle_ofBits h) (asHandle_ofBits p))
  case bcLast d h _ =>
    exact decode_encode_of_parse rfl (decodeCommand_1E _) (parse3_eq (asHandle_ofBits d) (asHandle_ofBits h) rfl)
  case bcPrune h _ => exact decode_encode_of_parse rfl (decodeCommand_1F _) (parse2_eq (asHandle_ofBits h) rfl)
  case bcEqual h p => exact decode_encode_of_parse rfl (decodeCommand_20 _) (parse2_eq (asHandle_ofBits h) (asHandle_ofBits p))
  case bcCount h => exact decode_encode_of_parse rfl (decodeCommand_21 _) (parse1_eq (asHandle_ofBits h))
  case bcLen h => exact decode_encode_of_parse rfl (decodeCommand_22 _) (parse1_eq (asHandle_ofBits h))
  case bcStrl h => exact decode_encode_of_parse rfl (decodeCommand_23 _) (parse1_eq (asHandle_ofBits h))
  case bcStrr h => exact decode_encode_of_parse rfl (decodeCommand_24 _) (parse1_eq (asHandle_ofBits h))
  case bcFromstr h _ => exact decode_encode_of_parse rfl (decodeCommand_25 _) (parse2_eq (asHandle_ofBits h) rfl)
  case bcFromu8 h x => exact decode_encode_of_parse rfl (decodeCommand_26 _) (parse2_eq (asHandle_ofBits h) (asValue_ofBits x))
  case bcFromu16 h x => exact decode_encode_of_parse rfl (decodeCommand_27 _) (parse2_eq (asHandle_ofBits h) (asValue_ofBits x))
  case bcFromu32 h x => exact decode_encode_of_parse rfl (decodeCommand_28 _) (parse2_eq (asHandle_ofBits h) (asValue_ofBits x))
  case bcFromu64 h x => exact decode_encode_of_parse rfl (decodeCommand_29 _) (parse2_eq (asHandle_ofBits h) (asValue_ofBits x))
  case rdNextevent => exact decode_encode_of_parse rfl (decodeCommand_30 _) rfl
  case rdNextgbt => exact decode_encode_of_parse rfl (decodeCommand_31 _) rfl
  case dspWord _ => exact decode_encode_of_parse rfl (decodeCommand_40 _) (parse1_eq rfl)
  case dspClearall => exact decode_encode_of_parse rfl (decodeCommand_41 _) rfl
  case elAppend e v0 v1 =>
    exact decode_encode_of_parse rfl (decodeCommand_50 _) (parse3_eq (asElink_ofElink e) (asBit_ofBit v0) (asBit_ofBit v1))
  case elPush e v => exact decode_encode_of_parse rfl (decodeCommand_51 _) (parse2_eq (asElink_ofElink e) (asBit_ofBit v))
  case elForceclear e => exact decode_encode_of_parse rfl (decodeCommand_52 _) (parse1_eq (asElink_ofElink e))
  case elIsempty e => exact decode_encode_of_parse rfl (decodeCommand_53 _) (parse1_eq (asElink_ofElink e))
  case elRead e => exact decode_encode_of_parse rfl (decodeCommand_54 _) (parse1_eq (asElink_ofElink e))
  case plStep => exact decode_encode_of_parse rfl (decodeCommand_60 _) rfl
  case cfgSetmask m => exact decode_encode_of_parse rfl (decodeCommand_61 _) (parse1_eq (asMask_ofBits m))
  case cfgGetmask => exact decode_encode_of_parse rfl (decodeCommand_62 _) rfl
  case sysStatus => exact decode_encode_of_parse rfl (decodeCommand_63 _) rfl
  case sysReset _ => exact decode_encode_of_parse rfl (decodeCommand_7F _) (parse1_eq rfl)
  case sdhHeartbeat | sdhDataTruncated | sdhSync | sdhDataTruncatedTriggerTooEarly | sdhData | sdhDataNumwords |
      sdhDataTriggerTooEarly | sdhDataTriggerTooEarlyNumwords =>
    simp [encode, decode, decodeHeader, Sdh.pkt_pack, Sdh.fields_pack]
  case sdhSyncPatternHuntMatch => simp [encode, decode]

/-- Settles O2, by the three forms of a fetched unit. -/
theorem encodeInvertsDecode : Obligations.EncodeInvertsDecode := by
  intro f i h
  cases f with
  | command c => exact encode_of_decodeCommand h
  | hunt e w =>
    simp only [decode] at h
    split at h
    · next hw =>
      obtain rfl := Except.ok.inj h
      rw [hw, encode]
    · cases h
  | header e w =>
    obtain rfl := Except.ok.inj h
    exact encode_decodeHeader e w

/-- Settles O7: the legal commands are those that decode to a well-formed instruction; any other is turned away by the decoder or
by the handle check of its meaning. -/
theorem illegalCommandsRaise : Obligations.IllegalCommandsRaise := by
  intro s raw rest hs hp
  refine ⟨fun hl => ?_, (legal_iff_decodeCommand s.config raw).1⟩
  have hstep : step s = issueCommand raw (s.withPending rest) := by simp [step, hp, perform]
  rw [hstep]
  unfold issueCommand
  cases hd : decode (.command raw) with
  | error err => exact command_raise (s := s.withPending rest) hs rfl
  | ok i =>
    have hi : i.wellFormed s.config = false :=
      Bool.eq_false_iff.2 fun hw => hl ((legal_iff_decodeCommand s.config raw).2 ⟨i, hd, hw⟩)
    exact exec_of_illformed hs hi

/-- Settles O3: each of the words is the encoding of its instruction. -/
theorem specWordsDecode : Obligations.SpecWordsDecode :=
  ⟨decodeEncodeAgree (.bcSetr16 0x40 3 10 0xFF), decodeEncodeAgree (.elAppend 5 true false),
    decodeEncodeAgree (.dspWord [0xB4, 0, 0, 0, 0, 0, 0, 0, 0, 0]), decodeEncodeAgree (.cfgSetmask 0xFFFFFFFFF0),
    decodeEncodeAgree (.sdhData 0 ⟨0, 0, 4, 3, 7, 0, 0⟩), decodeEncodeAgree (.sdhSyncPatternHuntMatch 3)⟩

/-- Settles O4: a slice of `len` bits from bit `start` is the quotient by `2 ^ start`, modulo `2 ^ len`. -/
theorem sdhFieldsPartitionHeader : Obligations.SdhFieldsPartitionHeader := by
  intro h
  have slice (start len : Nat) : (h.extractLsb' start len).toNat = h.toNat / 2 ^ start % 2 ^ len := by
    rw [BitVec.extractLsb'_toNat, Nat.shiftRight_eq_div_pow]
  have hdp : h.toNat / 2 ^ 49 % 2 ^ 1 = h.toNat / 2 ^ 49 := Nat.mod_eq_of_lt (by have := h.isLt; omega)
  exact ⟨(slice 0 6).trans (by simp), slice 6 1, slice 7 3, slice 10 10, slice 20 4, slice 24 5, slice 29 20,
    (slice 49 1).trans hdp⟩

/-- Settles O5: the decoder selects the row by the PKT slice, which is the number the statement reads off the word. -/
theorem everyPktNamesARow : Obligations.EveryPktNamesARow := by
  intro e h
  unfold rowOf
  rw [← Sdh.toNat_pkt]
  rfl

/-- Settles O6, by evaluating the constant: for each shift the search over positions finds a bit that differs. -/
theorem syncPatternConstant : Obligations.SyncPatternConstant := by
  refine ⟨rfl, by decide, by decide, by decide +kernel, by decide +kernel, by decide +kernel⟩

end Sys2Proof.Machine
end

section
/-! How a `BC.*` command runs, in the words of the statements: which container a handle names (30_encoding.md R78,
40_bit_container.md R83), how a body ends, and what a body that checks, grows or raises answers (R84, R86). -/

namespace Sys2Proof.Machine

open Sys2Proof.Claims

section
variable {s t : State} {h : Handle} {j : Nat} {c : Container}

/-! ### Handles -/

theorem not_isScratch_of_noWrite (hh : NoWrite s h) : h.isScratch s.config = false :=
  decide_eq_false fun hs => by omega

theorem not_readable_of_noRead (hh : NoRead s h) : h.readable s.config = false :=
  Bool.or_eq_false_iff.2 ⟨decide_eq_false fun he => by omega, not_isScratch_of_noWrite hh.2⟩

/-- The check on two reading handles fails where either may not stand. -/
theorem not_readable_and_of_noRead {p : Handle} (hh : NoRead s h ∨ NoRead s p) :
    (h.readable s.config && p.readable s.config) = false :=
  Bool.and_eq_false_iff.2 (hh.imp not_readable_of_noRead not_readable_of_noRead)

theorem State.resolveR_eq_some : s.resolveR h = some c ↔ ReadsAs s h c := by
  by_cases he : h.toNat < 40
  · rw [s.resolveR_elink ⟨h.toNat, he⟩ rfl, Option.some.injEq]
    constructor
    · exact fun hc => .inl ⟨⟨h.toNat, he⟩, rfl, hc⟩
    · rintro (⟨e, hhe, rfl⟩ | ⟨hscr, -⟩)
      · simp [hhe]
      · omega
  · rw [State.resolveR, dif_neg he, Option.map_eq_some_iff]
    constructor
    · rintro ⟨⟨k, d⟩, hw, rfl⟩
      obtain ⟨hk, hlt, hget⟩ := State.resolveW_eq_some.1 hw
      obtain rfl : h.toNat - 64 = k := by omega
      exact .inr ⟨hk, hlt, hget⟩
    · rintro (⟨e, hhe, -⟩ | hscr)
      · omega
      · exact ⟨(_, c), State.resolveW_eq_some.2 hscr, rfl⟩

theorem readsAs_of_scratchAt (hj : ScratchAt s h j c) : ReadsAs s h c :=
  State.resolveR_eq_some.1 (State.resolveR_scratch (State.resolveW_eq_some.2 hj))

/-- The handle of a scratch container that was just written names what was written. -/
theorem scratchAt_withScratch (hj : ScratchAt s h j c) (d : Container) (r : Answer) :
    ScratchAt ((s.withScratch j d).withResult r) h j d := by
  obtain ⟨hk, hlt, hget⟩ := hj
  refine ⟨hk, hlt, ?_⟩
  obtain ⟨hlen, -⟩ := List.getElem?_eq_some_iff.1 hget
  exact List.getElem?_set_self hlen

/-! ### How a body ends -/

@[simp] theorem finish_raise (e : FatalCode) (s : State) : finish (raise e s) = raises s e := rfl
@[simp] theorem finish_ok (r : Results) (s : State) : finish (.done (ok r) s) = returns s .ok r := rfl
theorem finish_withScratch (s : State) (j : Nat) (d : Container) :
    finish (.done (ok .nothing) (s.withScratch j d)) = wrote s j d := rfl

/-! ### Handle, then body -/

section
variable {i : Instr}

theorem exec_of_reading {k : State → Container → Run Answer} (hx : ∀ s, exec i s = command s fun s => reading s h (k s))
    (hs : s.fault = none) (hc : ReadsAs s h c) : exec i s = finish (k s c) := by
  rw [hx, command_of_unfaulted hs, reading_some (State.resolveR_eq_some.2 hc)]

theorem exec_of_writing {k : State → Nat → Container → Run Answer}
    (hx : ∀ s, exec i s = command s fun s => writing s h (k s)) (hs : s.fault = none) (hj : ScratchAt s h j c) :
    exec i s = finish (k s j c) := by
  rw [hx, command_of_unfaulted hs, writing_some (State.resolveW_eq_some.2 hj)]

theorem exec_of_reading_reading {p : Handle} {q : Container} {k : State → Container → Container → Run Answer}
    (hx : ∀ s, exec i s = command s fun s => reading s h fun c => reading s p (k s c)) (hs : s.fault = none)
    (hc : ReadsAs s h c) (hq : ReadsAs s p q) : exec i s = finish (k s c q) := by
  rw [exec_of_reading hx hs hc, reading_some (State.resolveR_eq_some.2 hq)]

theorem exec_of_reading_writing {d : Handle} {q : Container} {k : State → Container → Nat → Container → Run Answer}
    (hx : ∀ s, exec i s = command s fun s => reading s h fun c => writing s d (k s c)) (hs : s.fault = none)
    (hc : ReadsAs s h c) (hj : ScratchAt s d j q) : exec i s = finish (k s c j q) := by
  rw [exec_of_reading hx hs hc, writing_some (State.resolveW_eq_some.2 hj)]

/-! ### A command that leaves the block without a fault -/

/-- A body that raises a fatal leaves the block faulted. -/
theorem finish_raise_ne_unfaulted {e : FatalCode} (ht : finish (raise e s) = .next t) : t.fault ≠ none := by
  obtain rfl := Host.Outcome.next.inj ht
  exact Option.some_ne_none e

theorem unfaulted_of_command {body : State → Run Answer} (ht : command s body = .next t) (hf : t.fault = none) :
    s.fault = none := by
  cases hs : s.fault with
  | none => rfl
  | some e =>
    rw [command_of_faulted hs] at ht
    obtain rfl := Host.Outcome.next.inj ht
    exact hs.symm.trans hf

theorem unfaulted_of_reading {k : State → Container → Run Answer}
    (hx : ∀ s, exec i s = command s fun s => reading s h (k s)) (ht : exec i s = .next t) (hf : t.fault = none) :
    s.fault = none ∧ ∃ c, ReadsAs s h c ∧ finish (k s c) = .next t := by
  rw [hx] at ht
  have hs := unfaulted_of_command ht hf
  rw [command_of_unfaulted hs] at ht
  cases hc : s.resolveR h with
  | some c => exact ⟨hs, c, State.resolveR_eq_some.1 hc, by rwa [reading_some hc] at ht⟩
  | none =>
    rw [reading_none hc] at ht
    exact absurd hf (finish_raise_ne_unfaulted ht)

theorem unfaulted_of_writing {k : State → Nat → Container → Run Answer}
    (hx : ∀ s, exec i s = command s fun s => writing s h (k s)) (ht : exec i s = .next t) (hf : t.fault = none) :
    s.fault = none ∧ ∃ j c, ScratchAt s h j c ∧ finish (k s j c) = .next t := by
  rw [hx] at ht
  have hs := unfaulted_of_command ht hf
  rw [command_of_unfaulted hs] at ht
  cases hc : s.resolveW h with
  | some p => exact ⟨hs, p.1, p.2, State.resolveW_eq_some.1 hc, by rwa [writing_some hc] at ht⟩
  | none =>
    rw [writing_none hc] at ht
    exact absurd hf (finish_raise_ne_unfaulted ht)

end

/-- A check that a command without a fault has passed. -/
theorem unfaulted_of_guarded {p : Prop} [Decidable p] {e : FatalCode} {x : Run Answer}
    (ht : finish (if p then raise e s else x) = .next t) (hf : t.fault = none) : ¬ p ∧ finish x = .next t := by
  split at ht
  · exact absurd hf (finish_raise_ne_unfaulted ht)
  · next hp => exact ⟨hp, ht⟩

/-- A write that left the block without a fault: the handle now names what was written in the grown container. -/
theorem unfaulted_of_growAndWrite {need : Nat} {w : Container → Container} (hj : ScratchAt s h j c)
    (ht : finish (growAndWrite s j c need w) = .next t) (hf : t.fault = none) : ∃ c', ReadsAs t h (w c') := by
  obtain ⟨c', -, hg⟩ | ⟨-, hg⟩ := growAndWrite_cases s j c need w
  · rw [hg] at ht
    obtain rfl := Host.Outcome.next.inj ht
    exact ⟨c', readsAs_of_scratchAt (scratchAt_withScratch hj _ _)⟩
  · rw [hg] at ht
    exact absurd hf (finish_raise_ne_unfaulted ht)

end

end Sys2Proof.Machine
end

section
/-! Growth by doubling (40_bit_container.md R84) and what a container holds after each write (R85 - R98), in the words of the
statements. -/

namespace Sys2Proof.Machine

open Sys2Proof.Claims

/-! ### Growth -/

theorem doublings_unique {cap need k k' : Nat} (hk : Doublings cap need k) (hk' : Doublings cap need k') : k = k' := by
  obtain ⟨hbelow, hat⟩ := hk
  obtain ⟨hbelow', hat'⟩ := hk'
  by_contra hne
  obtain hlt | hlt := Nat.lt_or_gt_of_ne hne
  · exact absurd hat (hbelow' k hlt).not_ge
  · exact absurd hat' (hbelow k' hlt).not_ge

/-- From a capacity of at least 1 the loop of R84 ends after the least number of doublings that suffices. -/
theorem exists_doublings {cap : Nat} (hcap : 1 ≤ cap) (need : Nat) :
    ∃ k, Doublings cap need k ∧ doubledCapacity (need.log2 + 1) cap need = 2 ^ k * cap := by
  obtain ⟨k, heq, hbelow, -, -⟩ := doubledCapacity_spec (need.log2 + 1) cap need
  rw [Nat.mul_comm] at heq
  exact ⟨k, ⟨fun j hj => Nat.mul_comm cap _ ▸ hbelow j hj, heq ▸ le_doubledCapacity hcap⟩, heq⟩

theorem doubledCapacity_of_doublings {cap need k : Nat} (hk : Doublings cap need k) (hneed : cap < need) :
    doubledCapacity (need.log2 + 1) cap need = 2 ^ k * cap := by
  have hcap : 1 ≤ cap := by
    by_contra h0
    obtain rfl : cap = 0 := by omega
    have := hk.2
    omega
  obtain ⟨k', hk', heq⟩ := exists_doublings hcap need
  rw [heq, doublings_unique hk hk']

/-- `grow`, given the number of doublings that the need takes. -/
theorem Container.grow_of_doublings {c : Container} {need k : Nat} (max : Nat) (hk : Doublings c.cap need k) :
    c.grow max need = if k = 0 ∨ 2 ^ k * c.cap ≤ max then some { c with cap := 2 ^ k * c.cap } else none := by
  cases k with
  | zero =>
    have hroom : need ≤ c.cap := by simpa using hk.2
    simp [Container.grow_of_le hroom]
  | succ k =>
    have hneed : c.cap < need := by simpa using hk.1 0 k.succ_pos
    have hroom := hk.2
    rw [Container.grow, if_neg hneed.not_ge, doubledCapacity_of_doublings hk hneed]
    by_cases hmax : 2 ^ (k + 1) * c.cap ≤ max
    · rw [if_neg (by omega), if_pos (.inr hmax)]
    · rw [if_pos (by omega), if_neg (by omega)]

/-- A grown write does what `WritesScratch` says, where `w` leaves a container with room as the statement says. -/
theorem growAndWrite_writesScratch {s : State} {j need len : Nat} {c : Container} {w : Container → Container}
    {bits : Nat → Bool}
    (hw : ∀ cap, c.cap ≤ cap → need ≤ cap → Holds (w { c with cap := cap }) len cap bits) :
    WritesScratch s j c need len bits (finish (growAndWrite s j c need w)) := by
  intro k hk
  rw [growAndWrite, Container.grow_of_doublings _ hk]
  constructor
  · intro hgrow
    rw [if_pos hgrow]
    exact ⟨_, hw _ (Nat.le_mul_of_pos_left _ (Nat.two_pow_pos k)) hk.2, rfl⟩
  · intro hgrow
    rw [if_neg hgrow]
    rfl

/-! ### What a container holds -/

section
variable {c : Container}

theorem Container.WF.withCap (hc : c.WF) {cap : Nat} (h : c.cap ≤ cap) : Container.WF { c with cap := cap } :=
  ⟨hc.1, hc.2.1, hc.2.2.trans h⟩

/-- Zero beyond length: the bits inside the length are all there are (10_state.md R40). -/
theorem old_eq_bit (hc : c.WF) (n : Nat) : old c n = c.bit n := by
  by_cases hn : n < c.len
  · simp [old, hn]
  · simp [old, hn, hc.bit_of_len_le (Nat.le_of_not_lt hn)]

@[simp] theorem old_withCap (c : Container) (cap n : Nat) : old { c with cap := cap } n = old c n := rfl

theorem holds_set (hc : c.WF) {i : Nat} (v : Bool) (hi : i + 1 ≤ c.cap) :
    Holds (c.set i v) (max c.len (i + 1)) c.cap fun n => if n = i then v else old c n :=
  ⟨Container.set_WF hc v hi, rfl, rfl, fun n => by simp only [Container.set_bit, old_eq_bit hc]⟩

theorem holds_write (hc : c.WF) {a n : Nat} (f : Nat → Bool) (h : a + n ≤ c.cap) :
    Holds (c.write a n f) (max c.len (a + n)) c.cap fun k => if a ≤ k ∧ k < a + n then f (k - a) else old c k :=
  ⟨Container.write_WF hc f h, rfl, rfl, fun k => by simp only [Container.write_bit, old_eq_bit hc]⟩

/-- The content replaced by `n` bits of a function that is 0 from `n` on. -/
theorem holds_fill {n : Nat} {f : Nat → Bool} (hf : ∀ k, n ≤ k → f k = false) (h : n ≤ c.cap) :
    Holds (c.fill n f) n c.cap f := by
  refine ⟨c.fill_WF f h, rfl, rfl, fun k => ?_⟩
  rw [Container.fill_bit]
  by_cases hk : k < n
  · simp [hk]
  · simp [hk, hf k (Nat.le_of_not_lt hk)]

theorem holds_clear : Holds c.clear 0 c.cap fun _ => false := ⟨c.clear_WF, rfl, rfl, c.clear_bit⟩

theorem holds_prune (hc : c.WF) (n : Nat) : Holds (c.prune n) (c.len - n) c.cap fun k => old c (k + n) :=
  ⟨Container.prune_WF hc n, rfl, rfl, fun k => by
    simp only [Container.prune_bit, old_eq_bit hc, Nat.add_comm n k]⟩

theorem holds_takeLast (t : Container) (hc : c.WF) {n : Nat} (hn : n ≤ c.len) (h : n ≤ t.cap) :
    Holds (t.takeLast c n) n t.cap fun k => decide (k < n) && c.bit (c.len - n + k) := by
  refine ⟨Container.takeLast_WF t hc hn h, rfl, rfl, fun k => ?_⟩
  rw [Container.takeLast_bit]
  by_cases hk : k < n
  · simp [hk]
  · simp [hk, hc.bit_of_len_le (show c.len ≤ c.len - n + k by omega)]

/-! ### Read-outs as sums and strings -/

theorem bitsValue_eq_sum (f : Nat → Bool) (n : Nat) : bitsValue f n = ∑ k ∈ Finset.range n, (f k).toNat * 2 ^ k := by
  induction n with
  | zero => rfl
  | succ n ih => rw [bitsValue_succ, ih, Finset.sum_range_succ]

theorem Container.toNat_slice (c : Container) {w n : Nat} (a : Nat) (hn : n ≤ w) :
    (BitVec.ofNat w (c.slice a n)).toNat = ∑ k ∈ Finset.range n, (c.bit (a + k)).toNat * 2 ^ k := by
  have hlt : c.slice a n < 2 ^ w := (bitsValue_lt _ n).trans_le (Nat.pow_le_pow_right two_pos hn)
  rw [BitVec.toNat_ofNat, Nat.mod_eq_of_lt hlt]
  exact bitsValue_eq_sum _ n

theorem countP_range_eq_sum (f : Nat → Bool) (n : Nat) : (List.range n).countP f = ∑ k ∈ Finset.range n, (f k).toNat := by
  induction n with
  | zero => rfl
  | succ n ih =>
    rw [List.range_succ, List.countP_append, ih, Finset.sum_range_succ, List.countP_singleton]
    cases f n <;> rfl

theorem map_range_eq_ofFn {α : Type} (f : Nat → α) (n : Nat) : (List.range n).map f = List.ofFn fun k : Fin n => f k :=
  List.ofFn_eq_pmap.trans (List.pmap_eq_map _) |>.symm

theorem Container.spellLeft_eq_ofFn (c : Container) :
    c.spellLeft = List.ofFn fun k : Fin c.len => if c.bit k.val then '1' else '0' := map_range_eq_ofFn _ _

theorem Container.spellRight_eq_ofFn (c : Container) :
    c.spellRight = List.ofFn fun k : Fin c.len => if c.bit (c.len - 1 - k.val) then '1' else '0' :=
  map_range_eq_ofFn (fun k => bitChar (c.bit (c.len - 1 - k))) _

/-! ### The bits of a byte sequence and of a string -/

/-- Zero beyond the bytes (20_memory.md R51). -/
theorem bytesBit_of_length_le {bs : List Byte} {k : Nat} (hk : 8 * bs.length ≤ k) : bytesBit bs k = false := by
  rw [bytesBit, List.getD_eq_default _ _ (by omega), BitVec.ofNat_eq_ofNat, BitVec.getLsbD_zero]

theorem stringBit_eq_decide (cs : List Char) (k : Nat) : stringBit cs k = decide (cs[k]? = some '1') := by
  rw [stringBit, List.getD_eq_getElem?_getD]
  cases cs[k]? with
  | none => rfl
  | some ch => simp [beq_eq_decide]

/-- Zero beyond the string. -/
theorem stringBit_of_length_le {cs : List Char} {k : Nat} (hk : cs.length ≤ k) : stringBit cs k = false := by
  simp [stringBit_eq_decide, hk]

/-! ### What was written is read back -/

/-- A word written as the content is read back whole (40_bit_container.md R104). -/
theorem Container.slice_fill {w : Nat} (c : Container) (x : BitVec w) :
    BitVec.ofNat w ((c.fill w x.getLsbD).slice 0 w) = x :=
  BitVec.eq_of_getLsbD_eq fun k hk => by
    rw [Container.getLsbD_slice _ _ _ _ _ le_rfl, Container.fill_bit]
    simp [hk]

/-- The string written as the content is spelled back (40_bit_container.md R104). -/
theorem Container.spellLeft_fill (c : Container) {cs : List Char} (hcs : ∀ ch ∈ cs, ch = '0' ∨ ch = '1') :
    (c.fill cs.length (stringBit cs)).spellLeft = cs := by
  refine List.ext_getElem (by simp [Container.spellLeft]) fun k hk hk' => ?_
  simp only [Container.spellLeft, List.getElem_map, List.getElem_range, Container.fill_bit, hk', decide_true, Bool.true_and]
  obtain hch | hch := hcs cs[k] (List.getElem_mem hk')
  · simp [stringBit, bitChar, hk', hch]
  · simp [stringBit, bitChar, hk', hch]

end

end Sys2Proof.Machine
end

section
/-! The statements of 40_bit_container.md: what a handle names, how a container grows, and each `BC.*` command. -/

namespace Sys2Proof.Machine

open Sys2Proof.Claims

/-- Settles O8: the two resolutions are the two relations of the statements, and a refused handle is an ill-formed
instruction. -/
theorem handlesNameContainers : Obligations.HandlesNameContainers := by
  intro s h _
  refine ⟨fun e he => ⟨s.resolveR_elink e he, State.resolveW_of_not_isScratch (not_isScratch_of_noWrite (by omega))⟩,
    fun j c hj => ⟨State.resolveR_eq_some.2 (readsAs_of_scratchAt hj), State.resolveW_eq_some.2 hj⟩,
    fun hh => State.resolveR_of_not_readable (not_readable_of_noRead hh),
    fun hh => State.resolveW_of_not_isScratch (not_isScratch_of_noWrite hh),
    fun i hs hi => exec_of_illformed hs hi⟩

/-- Settles O21: the loop stops at the least number of doublings that suffices, and `grow` looks at the limit there. -/
theorem growDoublesOrRefuses : Obligations.GrowDoublesOrRefuses := by
  intro max need c hcap
  obtain ⟨k, hk, -⟩ := exists_doublings hcap need
  refine ⟨k, hk, fun hgrow => ?_, fun hpos hmax => ?_⟩
  · rw [Container.grow_of_doublings max hk, if_pos hgrow]
  · rw [Container.grow_of_doublings max hk, if_neg (by omega)]

/-- Settles O22: the container the handle names, then the check of the index. -/
theorem bcGetReadsBit : Obligations.BcGetReadsBit := by
  intro s h i hs
  refine ⟨rfl, fun hh => exec_of_illformed hs (not_readable_of_noRead hh), fun c hc => ⟨fun hi => ?_, fun h0 hlt => ?_⟩⟩
  · rw [exec_of_reading (fun _ => rfl) hs hc, if_pos hi, finish_raise]
  · rw [exec_of_reading (fun _ => rfl) hs hc, if_neg (by omega), finish_ok]

/-! ### `BC.SET` and `BC.APPEND` -/

theorem exec_bcSet {s : State} {h : Handle} {j : Nat} {c : Container} (hs : s.fault = none) (hj : ScratchAt s h j c) (i : Int)
    (v : Bool) : exec (.bcSet h i v) s = finish (setBit s j c i v) := by
  rw [exec_of_writing (fun _ => rfl) hs hj]

theorem exec_bcAppend {s : State} {h : Handle} {j : Nat} {c : Container} (hs : s.fault = none) (hj : ScratchAt s h j c)
    (v : Bool) : exec (.bcAppend h v) s = finish (setBit s j c c.len v) := by
  rw [exec_of_writing (fun _ => rfl) hs hj]

/-- The bit, the length, the gap of zeros and the growth of a bit written at `n` (40_bit_container.md R88). -/
theorem setBit_writesScratch {s : State} {j : Nat} {c : Container} (hw : c.WF) (n : Nat) (v : Bool) :
    WritesScratch s j c (n + 1) (max c.len (n + 1)) (fun k => if k = n then v else old c k) (finish (setBit s j c n v)) := by
  rw [setBit, if_neg (by omega)]
  exact growAndWrite_writesScratch fun _ hcap hroom => holds_set (hw.withCap hcap) v hroom

/-- Settles O23: a negative index is turned away, and a natural one is where the bit is written. -/
theorem bcSetWritesBit : Obligations.BcSetWritesBit := by
  intro s h i v hs
  refine ⟨rfl, fun hh => exec_of_illformed hs (not_isScratch_of_noWrite hh), fun j c hj hw => ⟨fun hi => ?_, fun hi => ?_⟩⟩
  · rw [exec_bcSet hs hj, setBit, if_pos hi, finish_raise]
  · rw [exec_bcSet hs hj]
    lift i to Nat using hi
    exact setBit_writesScratch hw i v

/-- Settles O24: both commands run `setBit`, here at the length. -/
theorem bcAppendWritesAtLength : Obligations.BcAppendWritesAtLength := by
  intro s h v hs
  refine ⟨rfl, fun hh => exec_of_illformed hs (not_isScratch_of_noWrite hh), fun j c hj hw => ?_⟩
  rw [exec_bcAppend hs hj, exec_bcSet hs hj]
  have hset := setBit_writesScratch (s := s) (j := j) hw c.len v
  rw [max_eq_right c.len.le_succ] at hset
  exact ⟨rfl, hset⟩

/-- Settles O25: what is written is the cleared container. -/
theorem bcClearEmpties : Obligations.BcClearEmpties := by
  intro s h hs
  refine ⟨rfl, fun hh => exec_of_illformed hs (not_isScratch_of_noWrite hh), fun j c hj => ⟨c.clear, holds_clear, ?_⟩⟩
  rw [exec_of_writing (fun _ => rfl) hs hj, finish_withScratch]

/-! ### `BC.SETR<W>` -/

/-- The bits `a .. b` from the low bits of `x` (40_bit_container.md R91), where both checks of the range have passed. -/
theorem growAndWrite_range_writesScratch {s : State} {j : Nat} {c : Container} (hw : c.WF) {w : Nat} (x : BitVec w) {a b : Nat}
    (hab : a ≤ b) :
    WritesScratch s j c (b + 1) (max c.len (b + 1)) (fun n => if a ≤ n ∧ n ≤ b then x.getLsbD (n - a) else old c n)
      (finish (growAndWrite s j c (b + 1) (·.write a (b - a + 1) x.getLsbD))) := by
  refine growAndWrite_writesScratch fun cap hcap hroom => ?_
  have hend : a + (b - a + 1) = b + 1 := by omega
  have hold := holds_write (hw.withCap hcap) (a := a) (n := b - a + 1) x.getLsbD (hend ▸ hroom)
  simpa only [hend, Nat.lt_succ_iff, old_withCap] using hold

/-- `BC.SETR<W>` for an instruction that runs `setRange`. -/
theorem setrRule_of_setRange {w : Nat} {op : BitVec 8} {mk : Handle → Int → Int → BitVec w → Instr}
    (henc : ∀ h a b x, encode (mk h a b x) = .command ⟨op, [.int h.toNat, .int a, .int b, .int x.toNat]⟩)
    (hx : ∀ h a b x s, exec (mk h a b x) s = command s (setRange w h a b x)) : SetrRule w op mk := by
  intro s h a b x hs
  refine ⟨henc h a b x, fun hh => exec_of_writing_illegal (hx h a b x) hs (not_isScratch_of_noWrite hh),
    fun j c hj hw => ⟨fun hrange => ?_, fun ha hab hwidth => ?_, fun ha hab hwidth => ?_⟩⟩
  · rw [exec_of_writing (hx h a b x) hs hj, if_pos hrange, finish_raise]
  · rw [exec_of_writing (hx h a b x) hs hj, if_neg (by omega), if_pos hwidth, finish_raise]
  · rw [exec_of_writing (hx h a b x) hs hj, if_neg (by omega), if_neg (by omega)]
    lift a to Nat using ha
    lift b to Nat using by omega
    have hab : a ≤ b := by omega
    have hsub : ((b : Int) - a).toNat = b - a := by omega
    simpa only [hsub, Int.toNat_natCast, Nat.cast_le] using growAndWrite_range_writesScratch hw x hab

/-- Settles O26, the four widths alike. -/
theorem bcSetrWritesRange : Obligations.BcSetrWritesRange :=
  ⟨setrRule_of_setRange (fun _ _ _ _ => rfl) fun _ _ _ _ _ => rfl, setrRule_of_setRange (fun _ _ _ _ => rfl) fun _ _ _ _ _ => rfl,
    setrRule_of_setRange (fun _ _ _ _ => rfl) fun _ _ _ _ _ => rfl, setrRule_of_setRange (fun _ _ _ _ => rfl) fun _ _ _ _ _ => rfl⟩

/-! ### `BC.UINT<W>` -/

section
variable {w : Nat} {op : BitVec 8} {mk : Handle → Int → Int → Instr} {res : BitVec w → Results}

/-- A range read that passes both checks answers the slice (40_bit_container.md R92). -/
theorem exec_uintRange (hx : ∀ h a b s, exec (mk h a b) s = command s fun s => uintRange w h a b s res) {s : State} {h : Handle}
    {a b b' : Int} {c : Container} (hs : s.fault = none) (hc : ReadsAs s h c) (hb : b' = if b < 0 then (c.len : Int) - 1 else b)
    (ha : 0 ≤ a) (hab : a ≤ b') (hlen : b' < c.len) (hwidth : b' - a < w) :
    exec (mk h a b) s = returns s .ok (res (BitVec.ofNat w (c.slice a.toNat ((b' - a).toNat + 1)))) := by
  rw [exec_of_reading (hx h a b) hs hc, ← hb, if_neg (by omega), if_neg (by omega), finish_ok]

/-- `BC.UINT<W>` for an instruction that runs `uintRange`. -/
theorem uintRule_of_uintRange (henc : ∀ h a b, encode (mk h a b) = .command ⟨op, [.int h.toNat, .int a, .int b]⟩)
    (hx : ∀ h a b s, exec (mk h a b) s = command s fun s => uintRange w h a b s res) : UintRule w op mk res := by
  intro s h a b hs
  refine ⟨henc h a b, fun hh => exec_of_reading_illegal (hx h a b) hs (not_readable_of_noRead hh),
    fun c b' hc hb => ⟨fun hrange => ?_, fun ha hab hlen hwidth => ?_, fun ha hab hlen hwidth => ?_⟩⟩
  · rw [exec_of_reading (hx h a b) hs hc, ← hb, if_pos hrange, finish_raise]
  · rw [exec_of_reading (hx h a b) hs hc, ← hb, if_neg (by omega), if_pos hwidth, finish_raise]
  · exact ⟨_, exec_uintRange hx hs hc hb ha hab hlen hwidth, c.toNat_slice _ (by omega)⟩

/-- What a range read that answered has read, for a bound `b` that is no shorthand for the last bit. -/
theorem uintRange_of_returns (hx : ∀ h a b s, exec (mk h a b) s = command s fun s => uintRange w h a b s res)
    (hres : ∀ x y, res x = res y → x = y) {s : State} {h : Handle} {a b : Int} {x : BitVec w} (hs : s.fault = none) (hb : 0 ≤ b)
    (ht : exec (mk h a b) s = returns s .ok (res x)) :
    ∃ c, ReadsAs s h c ∧ b < c.len ∧ b - a < w ∧ x = BitVec.ofNat w (c.slice a.toNat ((b - a).toNat + 1)) := by
  obtain ⟨-, c, hc, hrun⟩ := unfaulted_of_reading (hx h a b) ht hs
  rw [if_neg hb.not_gt] at hrun
  obtain ⟨hrange, hrun⟩ := unfaulted_of_guarded hrun hs
  obtain ⟨hwidth, hrun⟩ := unfaulted_of_guarded hrun hs
  rw [finish_ok] at hrun
  have hval := congrArg State.result (Host.Outcome.next.inj hrun)
  exact ⟨c, hc, by omega, by omega, hres _ _ (Answer.returned.inj hval).2.symm⟩

end

/-- Settles O27, the four widths alike. -/
theorem bcUintReadsRange : Obligations.BcUintReadsRange :=
  ⟨uintRule_of_uintRange (fun _ _ _ => rfl) fun _ _ _ _ => rfl, uintRule_of_uintRange (fun _ _ _ => rfl) fun _ _ _ _ => rfl,
    uintRule_of_uintRange (fun _ _ _ => rfl) fun _ _ _ _ => rfl, uintRule_of_uintRange (fun _ _ _ => rfl) fun _ _ _ _ => rfl⟩

/-! ### The content replaced -/

theorem replaceContent_writesScratch {s : State} {j n : Nat} {c : Container} {f : Nat → Bool}
    (hf : ∀ k, n ≤ k → f k = false) : WritesScratch s j c n n f (finish (replaceContent s j c n f)) :=
  growAndWrite_writesScratch fun _ _ hroom => holds_fill hf hroom

/-- Settles O28: the bits of a byte sequence are 0 beyond its bytes, as `fill` leaves them. -/
theorem bcSetbytesReplacesContent : Obligations.BcSetbytesReplacesContent := by
  intro s h bs hs
  refine ⟨rfl, fun hh => exec_of_illformed hs (not_isScratch_of_noWrite hh), fun j c hj => ?_⟩
  rw [exec_of_writing (fun _ => rfl) hs hj]
  exact replaceContent_writesScratch fun k hk => bytesBit_of_length_le hk

/-- Settles O29: the check of the characters, then the bits of the string, 0 beyond it. -/
theorem bcFromstrReplacesContent : Obligations.BcFromstrReplacesContent := by
  intro s h cs hs
  refine ⟨rfl, fun hh => exec_of_illformed hs (not_isScratch_of_noWrite hh), fun j c hj => ⟨fun hbad => ?_, fun hgood => ?_⟩⟩
  · obtain ⟨ch, hmem, h0, h1⟩ := hbad
    have hall : ¬ cs.all (fun ch => ch == '0' || ch == '1') := fun hall => by
      simpa [h0, h1] using List.all_eq_true.1 hall ch hmem
    rw [exec_of_writing (fun _ => rfl) hs hj, if_neg hall, finish_raise]
  · rw [exec_of_writing (fun _ => rfl) hs hj, if_pos (by simpa using hgood)]
    simp only [← stringBit_eq_decide]
    exact replaceContent_writesScratch fun k hk => stringBit_of_length_le hk

/-- `BC.FROMU<W>` for an instruction that runs `fromUint`. -/
theorem fromuRule_of_fromUint {w : Nat} {op : BitVec 8} {mk : Handle → BitVec w → Instr}
    (henc : ∀ h x, encode (mk h x) = .command ⟨op, [.int h.toNat, .int x.toNat]⟩)
    (hx : ∀ h x s, exec (mk h x) s = command s (fromUint w h x)) : FromuRule w op mk := by
  intro s h x hs
  refine ⟨henc h x, fun hh => exec_of_writing_illegal (hx h x) hs (not_isScratch_of_noWrite hh), fun j c hj => ?_⟩
  rw [exec_of_writing (hx h x) hs hj]
  exact replaceContent_writesScratch fun k hk => x.getLsbD_of_ge k hk

/-- Settles O30, the four widths alike. -/
theorem bcFromuReplacesContent : Obligations.BcFromuReplacesContent :=
  ⟨fromuRule_of_fromUint (fun _ _ => rfl) fun _ _ _ => rfl, fromuRule_of_fromUint (fun _ _ => rfl) fun _ _ _ => rfl,
    fromuRule_of_fromUint (fun _ _ => rfl) fun _ _ _ => rfl, fromuRule_of_fromUint (fun _ _ => rfl) fun _ _ _ => rfl⟩

/-! ### Search, slices and comparison -/

theorem Container.matchesAt_eq_false_iff (c q : Container) (i : Nat) :
    c.matchesAt q i = false ↔ ∃ k < q.len, c.bit (i + k) ≠ q.bit k := by
  rw [Bool.eq_false_iff, ne_eq, Container.matchesAt_iff]
  push Not
  rfl

/-- Settles O31: `search` answers the first start, and only where there is one. -/
theorem bcSearchFindsFirst : Obligations.BcSearchFindsFirst := by
  intro s h p hs
  refine ⟨rfl, fun hh => exec_of_illformed hs (not_readable_and_of_noRead hh), fun c q hc hq =>
    ⟨fun h0 => ?_, fun hpos => ⟨fun i hi hat hfirst => ?_, fun hnone => ?_⟩⟩⟩
  · rw [exec_of_reading_reading (fun _ => rfl) hs hc hq, if_pos h0, finish_raise]
  · have hfound : c.search q = some i := (c.search_eq_some q i).2
      ⟨hi, (c.matchesAt_iff q i).2 hat, fun i' hi' => (c.matchesAt_eq_false_iff q i').2 (hfirst i' hi')⟩
    rw [exec_of_reading_reading (fun _ => rfl) hs hc hq, if_neg hpos.ne', hfound]
    rfl
  · have hmiss : c.search q = none :=
      (c.search_eq_none q).2 fun i hi => (c.matchesAt_eq_false_iff q i).2 (hnone i hi)
    rw [exec_of_reading_reading (fun _ => rfl) hs hc hq, if_neg hpos.ne', hmiss]
    rfl

/-- Settles O32: the source is read before the destination is written, so they may be one container. -/
theorem bcLastCopiesTail : Obligations.BcLastCopiesTail := by
  intro s d h n hs
  refine ⟨rfl, fun hh => ?_, fun c j t hc hw hj => ⟨fun hrange => ?_, fun h0 hlen => ?_⟩⟩
  · exact exec_of_illformed hs (Bool.and_eq_false_iff.2 (hh.symm.imp not_isScratch_of_noWrite not_readable_of_noRead))
  · rw [exec_of_reading_writing (fun _ => rfl) hs hc hj, if_pos hrange, finish_raise]
  · rw [exec_of_reading_writing (fun _ => rfl) hs hc hj, if_neg (by omega)]
    exact growAndWrite_writesScratch fun _ _ hroom => holds_takeLast _ hw (by omega) hroom

/-- Settles O33: the check of the count, then the pruned container. -/
theorem bcPruneDropsHead : Obligations.BcPruneDropsHead := by
  intro s h n hs
  refine ⟨rfl, fun hh => exec_of_illformed hs (not_isScratch_of_noWrite hh), fun j c hj hw =>
    ⟨fun hrange => ?_, fun h0 hlen => ⟨_, holds_prune hw n.toNat, ?_⟩⟩⟩
  · rw [exec_of_writing (fun _ => rfl) hs hj, if_pos hrange, finish_raise]
  · rw [exec_of_writing (fun _ => rfl) hs hj, if_neg (by omega), finish_withScratch]

/-- Settles O34: `same` says that lengths and bits agree, and does not look at the capacities. -/
theorem bcEqualComparesBits : Obligations.BcEqualComparesBits := by
  intro s h p hs
  refine ⟨rfl, fun hh => exec_of_illformed hs (not_readable_and_of_noRead hh), fun c q hc hq => ?_⟩
  rw [exec_of_reading_reading (fun _ => rfl) hs hc hq, finish_ok, ← Container.same_iff]
  exact ⟨fun hsame => by rw [hsame], fun hdiff => by rw [Bool.eq_false_of_not_eq_true hdiff]⟩

/-! ### Read-outs -/

theorem exec_bcLen {s : State} {h : Handle} {c : Container} (hs : s.fault = none) (hc : ReadsAs s h c) :
    exec (.bcLen h) s = returns s .ok (.nat c.len) := by
  rw [exec_of_reading (fun _ => rfl) hs hc, finish_ok]

theorem exec_bcStrl {s : State} {h : Handle} {c : Container} (hs : s.fault = none) (hc : ReadsAs s h c) :
    exec (.bcStrl h) s = returns s .ok (.string c.spellLeft) := by
  rw [exec_of_reading (fun _ => rfl) hs hc, finish_ok]

/-- Settles O35: each read-out of the container the handle names, as a sum or a string of its bits. -/
theorem bcReadOuts : Obligations.BcReadOuts := by
  intro s h hs
  refine ⟨rfl, rfl, rfl, rfl, fun hh => ?_, fun c hc => ⟨?_, exec_bcLen hs hc, ?_, ?_⟩⟩
  · have hread := not_readable_of_noRead hh
    exact ⟨exec_of_illformed hs hread, exec_of_illformed hs hread, exec_of_illformed hs hread, exec_of_illformed hs hread⟩
  · rw [exec_of_reading (fun _ => rfl) hs hc, finish_ok, Container.count, countP_range_eq_sum]
  · rw [exec_bcStrl hs hc, Container.spellLeft_eq_ofFn]
  · rw [exec_of_reading (fun _ => rfl) hs hc, finish_ok, Container.spellRight_eq_ofFn]

end Sys2Proof.Machine
end

section
/-! A `BC.*` command writes all it writes or nothing (40_bit_container.md R86): each check comes before the one write. -/

namespace Sys2Proof.Machine

open Sys2Proof.Claims

/-- A body that returns leaves the fault register alone; one that ends in a fatal leaves the state it started from with only that
fault recorded. -/
def Run.AllOrNothing (s : State) : Run Answer → Prop
  | .done _ u => u.fault = s.fault
  | .fatal c u => u = s.withFault c

/-- What a fatal that such a body raised leaves of the block. -/
theorem command_of_allOrNothing {s t : State} {body : State → Run Answer} {c : FatalCode} (hb : (body s).AllOrNothing s)
    (hs : s.fault = none) (ht : command s body = .next t) (hf : t.fault = some c) : command s body = raises s c := by
  rw [command_of_unfaulted hs] at ht ⊢
  cases hrun : body s with
  | done a u =>
    rw [hrun] at ht hb
    obtain rfl := Host.Outcome.next.inj ht
    exact absurd (hf.symm.trans (Eq.trans hb hs)) (Option.some_ne_none c)
  | fatal e u =>
    rw [hrun] at ht hb
    obtain rfl : u = s.withFault e := hb
    obtain rfl := Host.Outcome.next.inj ht
    obtain rfl : e = c := Option.some.inj hf
    rfl

section
variable {s : State}

theorem allOrNothing_raise (c : FatalCode) : (raise c s : Run Answer).AllOrNothing s := rfl

theorem allOrNothing_returned (a : Answer) : (Run.done a s).AllOrNothing s := rfl

theorem allOrNothing_withScratch (a : Answer) (j : Nat) (c : Container) :
    (Run.done a (s.withScratch j c)).AllOrNothing s := rfl

theorem reading_allOrNothing (h : Handle) {k : Container → Run Answer} (hk : ∀ c, (k c).AllOrNothing s) :
    (reading s h k).AllOrNothing s := by
  cases hc : s.resolveR h with
  | some c => rw [reading_some hc]; exact hk c
  | none => rw [reading_none hc]; exact allOrNothing_raise _

theorem writing_allOrNothing (h : Handle) {k : Nat → Container → Run Answer} (hk : ∀ j c, (k j c).AllOrNothing s) :
    (writing s h k).AllOrNothing s := by
  cases hc : s.resolveW h with
  | some p => rw [writing_some hc]; exact hk p.1 p.2
  | none => rw [writing_none hc]; exact allOrNothing_raise _

theorem growAndWrite_allOrNothing (j : Nat) (c : Container) (need : Nat) (w : Container → Container) :
    (growAndWrite s j c need w).AllOrNothing s := by
  obtain ⟨c', -, hg⟩ | ⟨-, hg⟩ := growAndWrite_cases s j c need w
  · rw [hg]; exact allOrNothing_withScratch ..
  · rw [hg]; exact allOrNothing_raise _

theorem ite_allOrNothing {p : Prop} [Decidable p] {x y : Run Answer} (hx : x.AllOrNothing s) (hy : y.AllOrNothing s) :
    (if p then x else y).AllOrNothing s := by
  split
  · exact hx
  · exact hy

/-- The shape of a body that checks a condition and raises a fatal when it holds. -/
theorem guarded_allOrNothing {p : Prop} [Decidable p] (c : FatalCode) {x : Run Answer} (hx : x.AllOrNothing s) :
    (if p then raise c s else x).AllOrNothing s :=
  ite_allOrNothing (allOrNothing_raise c) hx

theorem setBit_allOrNothing (j : Nat) (c : Container) (i : Int) (v : Bool) : (setBit s j c i v).AllOrNothing s :=
  guarded_allOrNothing _ (growAndWrite_allOrNothing ..)

theorem setRange_allOrNothing (w : Nat) (h : Handle) (a b : Int) (x : BitVec w) : (setRange w h a b x s).AllOrNothing s :=
  writing_allOrNothing h fun _ _ => guarded_allOrNothing _ (guarded_allOrNothing _ (growAndWrite_allOrNothing ..))

theorem uintRange_allOrNothing (w : Nat) (h : Handle) (a b : Int) (k : BitVec w → Results) :
    (uintRange w h a b s k).AllOrNothing s :=
  reading_allOrNothing h fun _ => guarded_allOrNothing _ (guarded_allOrNothing _ (allOrNothing_returned _))

theorem replaceContent_allOrNothing (j : Nat) (c : Container) (n : Nat) (f : Nat → Bool) :
    (replaceContent s j c n f).AllOrNothing s :=
  growAndWrite_allOrNothing ..

theorem fromUint_allOrNothing (w : Nat) (h : Handle) (x : BitVec w) : (fromUint w h x s).AllOrNothing s :=
  writing_allOrNothing h fun _ _ => replaceContent_allOrNothing ..

end

/-- Every `BC.*` command runs a body that writes all it writes or nothing. -/
theorem exec_eq_command_allOrNothing {i : Instr} (hi : isContainerCommand i = true) :
    ∃ body, (∀ s, exec i s = command s body) ∧ ∀ s, (body s).AllOrNothing s := by
  cases i
  case rdNextevent | rdNextgbt | dspWord | dspClearall | elAppend | elPush | elForceclear | elIsempty | elRead | plStep |
      cfgSetmask | cfgGetmask | sysStatus | sysReset | sdhHeartbeat | sdhDataTruncated | sdhSync |
      sdhDataTruncatedTriggerTooEarly | sdhData | sdhDataNumwords | sdhDataTriggerTooEarly | sdhDataTriggerTooEarlyNumwords |
      sdhSyncPatternHuntMatch => simp [isContainerCommand, encode] at hi
  all_goals refine ⟨_, fun _ => rfl, fun s => ?_⟩
  case bcGet h _ => exact reading_allOrNothing h fun _ => guarded_allOrNothing _ (allOrNothing_returned _)
  case bcSet h _ _ => exact writing_allOrNothing h fun _ _ => setBit_allOrNothing ..
  case bcAppend h _ => exact writing_allOrNothing h fun _ _ => setBit_allOrNothing ..
  case bcClear h => exact writing_allOrNothing h fun _ _ => allOrNothing_withScratch ..
  case bcSetr8 | bcSetr16 | bcSetr32 | bcSetr64 => exact setRange_allOrNothing ..
  case bcUint8 | bcUint16 | bcUint32 | bcUint64 => exact uintRange_allOrNothing ..
  case bcSetbytes h _ => exact writing_allOrNothing h fun _ _ => replaceContent_allOrNothing ..
  case bcSearch h p =>
    refine reading_allOrNothing h fun _ => reading_allOrNothing p fun _ => guarded_allOrNothing _ ?_
    split
    · exact allOrNothing_returned _
    · exact allOrNothing_returned _
  case bcLast d h _ =>
    exact reading_allOrNothing h fun _ => writing_allOrNothing d fun _ _ =>
      guarded_allOrNothing _ (growAndWrite_allOrNothing ..)
  case bcPrune h _ => exact writing_allOrNothing h fun _ _ => guarded_allOrNothing _ (allOrNothing_withScratch ..)
  case bcEqual h p => exact reading_allOrNothing h fun _ => reading_allOrNothing p fun _ => allOrNothing_returned _
  case bcCount h | bcLen h | bcStrl h | bcStrr h => exact reading_allOrNothing h fun _ => allOrNothing_returned _
  case bcFromstr h _ =>
    exact writing_allOrNothing h fun _ _ => ite_allOrNothing (replaceContent_allOrNothing ..) (allOrNothing_raise _)
  case bcFromu8 | bcFromu16 | bcFromu32 | bcFromu64 => exact fromUint_allOrNothing ..

/-- Settles O37: each command's body writes all or nothing. -/
theorem failedContainerCommandsWriteNothing : Obligations.FailedContainerCommandsWriteNothing := by
  intro s t i c hi hs ht hf
  obtain ⟨body, hx, hb⟩ := exec_eq_command_allOrNothing hi
  rw [hx] at ht ⊢
  exact command_of_allOrNothing (hb s) hs ht hf

end Sys2Proof.Machine
end

section
/-! The source's bit-container invariants (40_bit_container.md R104), each over two commands. -/

namespace Sys2Proof.Machine

open Sys2Proof.Claims

/-- After `set(i, 1)`, `get(i) = 1` and `length ≥ i + 1`. -/
theorem get_len_of_set {s t : State} {h : Handle} {i : Int} (ht : exec (.bcSet h i true) s = .next t) (hf : t.fault = none) :
    exec (.bcGet h i) t = returns t .ok (.bit true) ∧ ∃ n : Nat, exec (.bcLen h) t = returns t .ok (.nat n) ∧ i + 1 ≤ n := by
  obtain ⟨-, j, c, hj, hrun⟩ := unfaulted_of_writing (fun _ => rfl) ht hf
  obtain ⟨hi, hrun⟩ := unfaulted_of_guarded hrun hf
  obtain ⟨c', hc'⟩ := unfaulted_of_growAndWrite hj hrun hf
  have hlen : i + 1 ≤ ((c'.set i.toNat true).len : Nat) := by
    rw [Container.set_len]
    omega
  obtain ⟨-, -, hget⟩ := bcGetReadsBit t h i hf
  obtain ⟨-, hget⟩ := hget _ hc'
  refine ⟨?_, _, exec_bcLen hf hc', hlen⟩
  rw [hget (by omega) (by omega), Container.set_bit, if_pos rfl]

/-- `uintW(0, W-1)` after `from_uW(x)` is `x`. -/
theorem uint_of_fromUint {w : Nat} {mkFrom : Handle → BitVec w → Instr} {mkUint : Handle → Int → Int → Instr}
    {res : BitVec w → Results} (hfrom : ∀ h x s, exec (mkFrom h x) s = command s (fromUint w h x))
    (huint : ∀ h a b s, exec (mkUint h a b) s = command s fun s => uintRange w h a b s res) (hw : 0 < w) {s t : State} {h : Handle}
    {x : BitVec w} (ht : exec (mkFrom h x) s = .next t) (hf : t.fault = none) :
    exec (mkUint h 0 ((w : Int) - 1)) t = returns t .ok (res x) := by
  obtain ⟨-, j, c, hj, hrun⟩ := unfaulted_of_writing (hfrom h x) ht hf
  obtain ⟨c', hc'⟩ := unfaulted_of_growAndWrite hj hrun hf
  have hlen : (w : Int) - 1 < (c'.fill w x.getLsbD).len := by
    rw [Container.fill_len]
    omega
  have hnum : ((w : Int) - 1 - 0).toNat + 1 = w := by omega
  rw [exec_uintRange huint hf hc' (if_neg (by omega)).symm le_rfl (by omega) hlen (by omega), hnum]
  exact congrArg (fun y => returns t .ok (res y)) (c'.slice_fill x)

/-- `from_string(s).to_string_lsb_left() == s`. -/
theorem strl_of_fromstr {s t : State} {h : Handle} {cs : List Char} (ht : exec (.bcFromstr h cs) s = .next t)
    (hf : t.fault = none) : exec (.bcStrl h) t = returns t .ok (.string cs) := by
  obtain ⟨-, j, c, hj, hrun⟩ := unfaulted_of_writing (fun _ => rfl) ht hf
  split at hrun
  · next hall =>
    obtain ⟨c', hc'⟩ := unfaulted_of_growAndWrite hj hrun hf
    have hcs : ∀ ch ∈ cs, ch = '0' ∨ ch = '1' := by simpa using hall
    rw [exec_bcStrl hf hc', Container.spellLeft_fill _ hcs]
  · exact absurd hf (finish_raise_ne_unfaulted hrun)

/-- Where a range read answers `x`, `get(i)` is bit `i - a` of `x` for each `i` in the range. -/
theorem get_of_uint {w : Nat} {mk : Handle → Int → Int → Instr} {res : BitVec w → Results}
    (hx : ∀ h a b s, exec (mk h a b) s = command s fun s => uintRange w h a b s res) (hres : ∀ x y, res x = res y → x = y)
    {s : State} {h : Handle} {a b i : Int} (ha : 0 ≤ a) (hai : a ≤ i) (hib : i ≤ b) (hs : s.fault = none) {x : BitVec w}
    (ht : exec (mk h a b) s = returns s .ok (res x)) :
    exec (.bcGet h i) s = returns s .ok (.bit (x.getLsbD (i - a).toNat)) := by
  obtain ⟨c, hc, hlen, hwidth, rfl⟩ := uintRange_of_returns hx hres hs (by omega) ht
  obtain ⟨-, -, hget⟩ := bcGetReadsBit s h i hs
  obtain ⟨-, hget⟩ := hget c hc
  have hin : (i - a).toNat < (b - a).toNat + 1 := by omega
  have hidx : a.toNat + (i - a).toNat = i.toNat := by omega
  rw [hget (by omega) (by omega), Container.getLsbD_slice _ _ _ _ _ (by omega), hidx]
  simp [hin]

/-- Settles O36 by the four laws, the widths of the second and the last alike. -/
theorem containerLaws : Obligations.ContainerLaws := by
  refine ⟨fun s t h i => get_len_of_set, fun s t h x => ?_, fun s t h x => ?_, fun s t h x => ?_, fun s t h x => ?_,
    fun s t h cs => strl_of_fromstr, fun s h a b i ha hai hib hs => ⟨fun x => ?_, fun x => ?_, fun x => ?_, fun x => ?_⟩⟩
  · exact uint_of_fromUint (mkUint := .bcUint8) (fun _ _ _ => rfl) (fun _ _ _ _ => rfl) (by omega)
  · exact uint_of_fromUint (mkUint := .bcUint16) (fun _ _ _ => rfl) (fun _ _ _ _ => rfl) (by omega)
  · exact uint_of_fromUint (mkUint := .bcUint32) (fun _ _ _ => rfl) (fun _ _ _ _ => rfl) (by omega)
  · exact uint_of_fromUint (mkUint := .bcUint64) (fun _ _ _ => rfl) (fun _ _ _ _ => rfl) (by omega)
  · exact get_of_uint (mk := .bcUint8) (fun _ _ _ _ => rfl) (fun _ _ => Results.u8.inj) ha hai hib hs
  · exact get_of_uint (mk := .bcUint16) (fun _ _ _ _ => rfl) (fun _ _ => Results.u16.inj) ha hai hib hs
  · exact get_of_uint (mk := .bcUint32) (fun _ _ _ _ => rfl) (fun _ _ => Results.u32.inj) ha hai hib hs
  · exact get_of_uint (mk := .bcUint64) (fun _ _ _ _ => rfl) (fun _ _ => Results.u64.inj) ha hai hib hs

end Sys2Proof.Machine
end

section
/-! `RD.NEXTEVENT` (41_frame_reader.md R105 - R113) in the words of the statements: the bytes ahead in the source, the little-endian
fields as numbers, and what the header and the payload of a frame come to. -/

namespace Sys2Proof.Machine

open Sys2Proof.Claims

/-! ### Little-endian fields -/

theorem toNat_append_byte {w : Nat} (x : BitVec w) (b : Byte) : (x ++ b).toNat = b.toNat + 2 ^ 8 * x.toNat := by
  rw [BitVec.toNat_append, ← Nat.shiftLeft_add_eq_or_of_lt b.isLt, Nat.shiftLeft_eq, Nat.mul_comm, Nat.add_comm]

theorem toNat_u32le (rd : Nat → Byte) (o : Nat) :
    (u32le rd o).toNat =
      (rd o).toNat + 2 ^ 8 * (rd (o + 1)).toNat + 2 ^ 16 * (rd (o + 2)).toNat + 2 ^ 24 * (rd (o + 3)).toNat := by
  simp only [u32le, toNat_append_byte]
  ring

theorem toNat_u32le_byteAt (bs : List Byte) (o : Nat) : (u32le (byteAt bs) o).toNat = le32 bs o := toNat_u32le ..

theorem eventMagic_iff (hb : List Byte) : (dateHeader hb).eventMagic = eventMagic ↔ le32 hb 4 = 0xDA1E5AFE := by
  rw [← BitVec.toNat_inj, ← toNat_u32le_byteAt]
  rfl

theorem toNat_eventSize (hb : List Byte) : (dateHeader hb).eventSize.toNat = le32 hb 0 := toNat_u32le_byteAt hb 0

/-- The header register holds the 80 bytes read. -/
theorem headerRegister_toList (hb : Vector Byte 80) : headerRegister hb.toList = hb := by
  ext i hi
  simp [headerRegister]

section
variable {s : State}

/-! ### The bytes ahead -/

theorem length_ahead (s : State) : (ahead s).length = s.src.length - s.inPos := List.length_drop

@[simp] theorem ahead_withHdr (s : State) (v : Vector Byte 80) : ahead (s.withHdr v) = ahead s := rfl

theorem streamRead_of_take {n : Nat} {bs : List Byte} (h : (ahead s).take n = bs) :
    streamRead n s = (bs, s.withInPos (s.inPos + bs.length)) :=
  congrArg (fun l : List Byte => (l, s.withInPos (s.inPos + l.length))) h

/-- A read of bytes that are there. -/
theorem streamRead_of_ahead {bs rest : List Byte} (h : ahead s = bs ++ rest) :
    streamRead bs.length s = (bs, s.withInPos (s.inPos + bs.length)) :=
  streamRead_of_take (by rw [h, List.take_left])

/-- A read of at least what is left takes it all and stands at the end of the source (20_memory.md R49). -/
theorem streamRead_of_length_le {n : Nat} (hpos : s.inPos ≤ s.src.length) (h : (ahead s).length ≤ n) :
    streamRead n s = (ahead s, s.withInPos s.src.length) := by
  have hend : s.inPos + (ahead s).length = s.src.length := by
    rw [length_ahead]
    omega
  rw [streamRead_of_take (List.take_of_length_le h), hend]

/-- The bytes ahead once the first of them are consumed. -/
theorem ahead_withInPos {bs rest : List Byte} (h : ahead s = bs ++ rest) :
    ahead (s.withInPos (s.inPos + bs.length)) = rest := by
  have hdrop : (ahead s).drop bs.length = rest := by rw [h, List.drop_left]
  rw [← hdrop]
  exact List.drop_drop.symm

/-! ### The payload -/

/-- The payload buffer once a frame's payload is stored from offset 0. -/
theorem stored_write (hw : s.payload.wf) (pb : List Byte) : Stored s pb (s.payload.write 0 pb) :=
  ⟨Memory.write_wf hw 0 pb, fun a => by simp [Memory.read_write hw]⟩

/-- The equipment size read back from the buffer is the one in the payload read (41_frame_reader.md R109). -/
theorem toNat_u32le_of_stored {pb : List Byte} {m : Memory} (hm : Stored s pb m) (h4 : 4 ≤ pb.length) :
    (u32le m.read 0).toNat = le32 pb 0 := by
  obtain ⟨-, hread⟩ := hm
  have hbyte : ∀ k < 4, m.read k = pb.getD k 0 := fun k hk => by rw [hread, if_pos (by omega)]
  rw [toNat_u32le, hbyte _ (by omega), hbyte _ (by omega), hbyte _ (by omega), hbyte _ (by omega)]
  rfl

theorem readPayload_of_limit_lt (hb : List Byte) {L : Nat} (hL : s.config.maxPayloadBytes < L) :
    readPayload hb L s = raise .payloadTooLarge s := if_pos hL

theorem readPayload_of_short (hb : List Byte) {L : Nat} (hL : L ≤ s.config.maxPayloadBytes) (hpos : s.inPos ≤ s.src.length)
    (h : (ahead s).length < L) : readPayload hb L s = raise .shortPayload (s.withInPos s.src.length) := by
  rw [readPayload, if_neg (not_lt.2 hL), streamRead_of_length_le hpos h.le]
  exact if_pos h

/-- The state once the payload `pb` is read and stored, before the equipment check. -/
def State.storePayload (s : State) (pb : List Byte) : State :=
  ((s.withInPos (s.inPos + pb.length)).withPayload (s.payload.write 0 pb)).withSize pb.length

/-- A payload that is there is stored, then its equipment size is checked (41_frame_reader.md R105, R109). -/
theorem readPayload_of_ahead (hw : s.payload.wf) (hb : List Byte) {pb rest : List Byte}
    (hL : pb.length ≤ s.config.maxPayloadBytes) (h : ahead s = pb ++ rest) :
    readPayload hb pb.length s =
      if pb.length < 4 ∨ le32 pb 0 ≠ pb.length then raise .equipmentSizeMismatch (s.storePayload pb)
      else .done (.event hb pb pb.length) (s.storePayload pb).acceptEvent := by
  have hcheck : (pb.length < 4 ∨ (u32le (s.payload.write 0 pb).read 0).toNat ≠ pb.length) ↔
      (pb.length < 4 ∨ le32 pb 0 ≠ pb.length) :=
    or_congr_right' fun h4 => by rw [toNat_u32le_of_stored (stored_write hw pb) (not_lt.1 h4)]
  rw [readPayload, if_neg (not_lt.2 hL), streamRead_of_ahead h]
  simp only [lt_irrefl, if_false, State.withSize_payload, State.withPayload_payload, State.withInPos_payload, hcheck,
    Memory.readBytes_write hw]
  rfl

/-! ### The frame -/

/-- The checks on a header, on its numbers (41_frame_reader.md R105 - R108). -/
theorem readFrame_toList (hb : Vector Byte 80) (s : State) :
    readFrame hb.toList s =
      if le32 hb.toList 4 ≠ 0xDA1E5AFE then raise .badMagic (s.withHdr hb)
      else if le32 hb.toList 0 < 80 then raise .badEventSize (s.withHdr hb)
      else if le32 hb.toList 0 = 80 then .done (.event hb.toList [] 0) ((s.withHdr hb).withSize 0).acceptEvent
      else readPayload hb.toList (le32 hb.toList 0 - 80) (s.withHdr hb) := by
  simp only [readFrame, headerRegister_toList, toNat_eventSize, ne_eq, eventMagic_iff]

theorem nextEvent_of_rdEof (he : s.rdEof = true) : nextEvent s = .done .eof s := if_pos he

theorem nextEvent_of_ahead_nil (he : s.rdEof = false) (h : ahead s = []) : nextEvent s = .done .eof s.endSource := by
  have hread : streamRead 80 s = ([], s) := streamRead_of_take (by rw [h, List.take_nil])
  simp [nextEvent, he, hread]

theorem nextEvent_of_short (he : s.rdEof = false) (hpos : 0 < (ahead s).length) (h : (ahead s).length < 80) :
    nextEvent s = raise .shortHeader (s.withInPos s.src.length) := by
  have hin := length_ahead s
  rw [nextEvent, streamRead_of_length_le (by omega) h.le]
  simp [he, h, List.length_pos_iff.1 hpos]

theorem nextEvent_of_header (he : s.rdEof = false) {hb : Vector Byte 80} {rest : List Byte} (h : ahead s = hb.toList ++ rest) :
    nextEvent s = readFrame hb.toList (s.withInPos (s.inPos + 80)) := by
  have hread := streamRead_of_ahead h
  rw [Vector.length_toList] at hread
  simp [nextEvent, he, hread]

/-! ### The command -/

theorem exec_rdNextevent (hs : s.fault = none) : exec .rdNextevent s = finish ((nextEvent s).map EventReply.answer) :=
  command_of_unfaulted hs fun s => (nextEvent s).map EventReply.answer

theorem exec_rdNextevent_of_eof {t : State} (hs : s.fault = none) (h : nextEvent s = .done .eof t) :
    exec .rdNextevent s = returns t .eof .nothing := by
  rw [exec_rdNextevent hs, h]
  rfl

theorem exec_rdNextevent_of_raise {t : State} {c : FatalCode} (hs : s.fault = none) (h : nextEvent s = raise c t) :
    exec .rdNextevent s = raises t c := by
  rw [exec_rdNextevent hs, h]
  rfl

theorem exec_rdNextevent_of_event {t : State} {hb pb : List Byte} {n : Nat} (hs : s.fault = none)
    (h : nextEvent s = .done (.event hb pb n) t.acceptEvent) :
    exec .rdNextevent s = returns { t with rdPhase := .loaded, eventsRead := t.eventsRead + 1 } .ok (.event hb pb n) := by
  rw [exec_rdNextevent hs, h]
  rfl

end

/-- Settles O38, outcome by outcome: the source's end, the header's checks, the payload's. -/
theorem nextEventReadsOneFrame : Obligations.NextEventReadsOneFrame := by
  intro s hs hw
  refine ⟨rfl, fun he => exec_rdNextevent_of_eof hs (nextEvent_of_rdEof he),
    fun he hnil => exec_rdNextevent_of_eof hs (nextEvent_of_ahead_nil he hnil),
    fun he hpos hlt => exec_rdNextevent_of_raise hs (nextEvent_of_short he hpos hlt), ?_⟩
  rintro hb rest t he hsource rfl
  have hlen : 80 + rest.length = s.src.length - s.inPos := by
    rw [← length_ahead, hsource, List.length_append, Vector.length_toList]
  have hahead : ahead ((s.withInPos (s.inPos + 80)).withHdr hb) = rest := by
    simpa using ahead_withInPos hsource
  have hframe := nextEvent_of_header he hsource
  rw [readFrame_toList] at hframe
  refine ⟨fun hmagic => exec_rdNextevent_of_raise hs (hframe.trans (if_pos hmagic)), fun hmagic => ?_⟩
  rw [if_neg (not_not.2 hmagic)] at hframe
  refine ⟨fun hsize => exec_rdNextevent_of_raise hs (hframe.trans (if_pos hsize)), fun hsize => ?_,
    fun hlimit hsize => ?_, fun hsize hlimit => ?_⟩
  · rw [if_neg (by omega), if_pos hsize] at hframe
    exact exec_rdNextevent_of_event hs hframe
  · rw [if_neg (by omega), if_neg (by omega)] at hframe
    have hmax : s.config.maxPayloadBytes < le32 hb.toList 0 - 80 := by omega
    exact exec_rdNextevent_of_raise hs (hframe.trans (readPayload_of_limit_lt _ hmax))
  · rw [if_neg (by omega), if_neg (by omega)] at hframe
    have hmax : le32 hb.toList 0 - 80 ≤ s.config.maxPayloadBytes := by omega
    refine ⟨fun hshort => ?_, fun pb rest' hpb hL => ?_⟩
    · have hpos : s.inPos + 80 ≤ s.src.length := by omega
      have hleft : rest.length < le32 hb.toList 0 - 80 := by omega
      rw [← hahead] at hleft
      exact exec_rdNextevent_of_raise hs (hframe.trans (readPayload_of_short _ hmax hpos hleft))
    · have hlenL : le32 hb.toList 0 - 80 = pb.length := by omega
      rw [hlenL] at hframe hmax
      rw [readPayload_of_ahead (s := (s.withInPos (s.inPos + 80)).withHdr hb) hw _ hmax (hahead.trans hpb)] at hframe
      exact ⟨_, stored_write hw pb, fun hbad => exec_rdNextevent_of_raise hs (hframe.trans (if_pos hbad)),
        fun h4 hgood => exec_rdNextevent_of_event hs (hframe.trans (if_neg (by omega)))⟩

end Sys2Proof.Machine
end

section
/-! `RD.NEXTGBT` (42_gbt_extractor.md R114 - R118) in the words of the statements: the SOP and the window byte by byte, what the
command comes to in each phase of the reader, and the walk over a loaded event. -/

namespace Sys2Proof.Machine

open Sys2Proof.Claims

/-! ### The SOP and the window, byte by byte -/

/-- A little-endian field whose value fits its first byte. -/
theorem u32le_eq_setWidth_iff (rd : Nat → Byte) (o : Nat) (x : Byte) :
    u32le rd o = x.setWidth 32 ↔ rd o = x ∧ rd (o + 1) = 0 ∧ rd (o + 2) = 0 ∧ rd (o + 3) = 0 := by
  have hx := x.isLt
  have h0 := (rd o).isLt
  have h1 := (rd (o + 1)).isLt
  have h2 := (rd (o + 2)).isLt
  have hwide : (x.setWidth 32).toNat = x.toNat := BitVec.toNat_setWidth_of_le (by decide)
  have hzero : (0 : Byte).toNat = 0 := rfl
  simp only [← BitVec.toNat_inj, toNat_u32le, hwide, hzero]
  omega

section
variable {s : State}

/-- The four fields of the SOP check are the sixteen bytes of the marker (42_gbt_extractor.md R115). -/
theorem sopOk_iff : sopOk s.payload s.size = true ↔ SopStands s := by
  have hzero : (0#32) = (0#8).setWidth 32 := rfl
  have hone : (1#32) = (1#8).setWidth 32 := rfl
  simp only [sopOk, SopStands, hzero, hone, Bool.and_eq_true, decide_eq_true_eq, beq_iff_eq, u32le_eq_setWidth_iff,
    Nat.forall_lt_succ_right]
  simp [and_assoc]

/-- The reshuffled window at `o` (42_gbt_extractor.md R116). -/
theorem reshuffle_readBytes (o : Nat) : reshuffle (s.payload.readBytes o 16) = windowWord s o := rfl

/-! ### The phases -/

theorem nextGbt_of_rdEof (he : s.rdEof = true) : nextGbt s = .done .eof s := if_pos he

theorem nextGbt_of_needEvent (he : s.rdEof = false) (hp : s.rdPhase = .needEvent) : nextGbt s = gbtNeedEvent s := by
  simp [nextGbt, he, hp]

theorem nextGbt_of_loaded (he : s.rdEof = false) (hp : s.rdPhase = .loaded) : nextGbt s = gbtLoaded s := by
  simp [nextGbt, he, hp]

theorem nextGbt_of_inEvent (he : s.rdEof = false) (hp : s.rdPhase = .inEvent) : nextGbt s = gbtWindow s := by
  simp [nextGbt, he, hp]

theorem gbtLoaded_of_not_sopStands (hsize : 0 < s.size) (hsop : ¬ SopStands s) :
    gbtLoaded s = .done .invalidSop (s.withPhase .needEvent) := by
  rw [gbtLoaded, if_neg hsize.ne', if_neg (mt sopOk_iff.1 hsop)]

theorem gbtLoaded_of_sopStands (hsop : SopStands s) : gbtLoaded s = gbtWindow ((s.withGbtPos 44).withPhase .inEvent) := by
  have hsize : s.size ≠ 0 := by
    have := hsop.1
    omega
  rw [gbtLoaded, if_neg hsize, if_pos (sopOk_iff.2 hsop)]

/-! ### What a frame read leaves (41_frame_reader.md R105) -/

@[simp] theorem streamRead_fault (n : Nat) (s : State) : (streamRead n s).2.fault = s.fault := rfl
@[simp] theorem streamRead_rdEof (n : Nat) (s : State) : (streamRead n s).2.rdEof = s.rdEof := rfl

/-- How a frame read from `s` can end: a fatal is recorded, the source is at its end, or an event is read without a fault. -/
def FrameOutcome (s : State) : Run EventReply → Prop
  | .fatal _ u => u.fault ≠ none
  | .done .eof u => u.rdEof = true
  | .done (.event _ _ _) u => u.fault = s.fault ∧ u.rdEof = s.rdEof

theorem frameOutcome_raise (c : FatalCode) (u : State) : FrameOutcome s (raise c u) := Option.some_ne_none c

/-- A frame read goes on after writes that touch neither the fault nor the end of the source. -/
theorem FrameOutcome.after {u : State} {x : Run EventReply} (hx : FrameOutcome u x) (hfault : u.fault = s.fault)
    (heof : u.rdEof = s.rdEof) : FrameOutcome s x := by
  match x, hx with
  | .fatal _ _, hf => exact hf
  | .done .eof _, he => exact he
  | .done (.event _ _ _) _, ⟨hf, he⟩ => exact ⟨hf.trans hfault, he.trans heof⟩

theorem readPayload_outcome (hb : List Byte) (L : Nat) : FrameOutcome s (readPayload hb L s) := by
  unfold readPayload
  split
  · exact frameOutcome_raise _ _
  · dsimp only
    split
    · exact frameOutcome_raise _ _
    · split
      · exact frameOutcome_raise _ _
      · exact ⟨by simp, by simp⟩

theorem readFrame_outcome (hb : List Byte) : FrameOutcome s (readFrame hb s) := by
  unfold readFrame
  dsimp only
  split
  · exact frameOutcome_raise _ _
  · split
    · exact frameOutcome_raise _ _
    · split
      · exact ⟨by simp, by simp⟩
      · exact (readPayload_outcome ..).after (by simp) (by simp)

theorem nextEvent_outcome (s : State) : FrameOutcome s (nextEvent s) := by
  unfold nextEvent
  split
  · next he => exact he
  · dsimp only
    split
    · exact rfl
    · split
      · exact frameOutcome_raise _ _
      · exact (readFrame_outcome _).after (by simp) (by simp)

/-! ### The command -/

theorem exec_rdNextgbt (hs : s.fault = none) : exec .rdNextgbt s = finish ((nextGbt s).map GbtReply.answer) :=
  command_of_unfaulted hs fun s => (nextGbt s).map GbtReply.answer

theorem exec_rdNextgbt_of_done {t : State} {r : GbtReply} (hs : s.fault = none) (h : nextGbt s = .done r t) :
    exec .rdNextgbt s = .next (t.withResult r.answer) := by
  rw [exec_rdNextgbt hs, h]
  rfl

theorem exec_rdNextgbt_of_empty (hs : s.fault = none) (he : s.rdEof = false) (hp : s.rdPhase = .loaded) (hsize : s.size = 0) :
    exec .rdNextgbt s = returns { s with rdPhase := .needEvent } .errEmptyEvent .nothing :=
  exec_rdNextgbt_of_done hs ((nextGbt_of_loaded he hp).trans (if_pos hsize))

theorem exec_rdNextgbt_of_not_sopStands (hs : s.fault = none) (he : s.rdEof = false) (hp : s.rdPhase = .loaded)
    (hsize : 0 < s.size) (hsop : ¬ SopStands s) :
    exec .rdNextgbt s = returns { s with rdPhase := .needEvent } .errInvalidSop .nothing :=
  exec_rdNextgbt_of_done hs ((nextGbt_of_loaded he hp).trans (gbtLoaded_of_not_sopStands hsize hsop))

/-- From a loaded event with a good SOP the command walks it from offset 44 (42_gbt_extractor.md R114). -/
theorem exec_rdNextgbt_of_sopStands (hs : s.fault = none) (he : s.rdEof = false) (hp : s.rdPhase = .loaded)
    (hsop : SopStands s) : exec .rdNextgbt s = exec .rdNextgbt { s with gbtPos := 44, rdPhase := .inEvent } := by
  have hwalk : nextGbt ((s.withGbtPos 44).withPhase .inEvent) = gbtWindow ((s.withGbtPos 44).withPhase .inEvent) :=
    nextGbt_of_inEvent he rfl
  rw [exec_rdNextgbt hs, nextGbt_of_loaded he hp, gbtLoaded_of_sopStands hsop, ← hwalk]
  exact (exec_rdNextgbt (s := (s.withGbtPos 44).withPhase .inEvent) hs).symm

theorem exec_rdNextgbt_of_window (hs : s.fault = none) (he : s.rdEof = false) (hp : s.rdPhase = .inEvent)
    (hw : s.gbtPos + 16 + 32 ≤ s.size) : exec .rdNextgbt s =
      returns { s with gbtPos := s.gbtPos + 16, gbtWords := s.gbtWords + 1 } .ok (.gbt (windowWord s s.gbtPos)) := by
  have hwindow := nextGbt_of_inEvent he hp
  rw [gbtWindow, if_neg (by omega), reshuffle_readBytes] at hwindow
  exact exec_rdNextgbt_of_done hs hwindow

theorem exec_rdNextgbt_of_trailer (hs : s.fault = none) (he : s.rdEof = false) (hp : s.rdPhase = .inEvent)
    (hw : s.size < s.gbtPos + 16 + 32) :
    exec .rdNextgbt s = returns { s with rdPhase := .needEvent } .errEndOfEvent .nothing := by
  have hwindow := nextGbt_of_inEvent he hp
  rw [gbtWindow, if_pos (by omega)] at hwindow
  exact exec_rdNextgbt_of_done hs hwindow

/-- In a walk the answer of the command before does not matter. -/
theorem exec_rdNextgbt_withResult_of_inEvent (hs : s.fault = none) (he : s.rdEof = false) (hp : s.rdPhase = .inEvent)
    (r : Answer) : exec .rdNextgbt (s.withResult r) = exec .rdNextgbt s := by
  by_cases hw : s.gbtPos + 16 + 32 ≤ s.size
  · exact (exec_rdNextgbt_of_window (s := s.withResult r) hs he hp hw).trans (exec_rdNextgbt_of_window hs he hp hw).symm
  · rw [not_le] at hw
    exact (exec_rdNextgbt_of_trailer (s := s.withResult r) hs he hp hw).trans (exec_rdNextgbt_of_trailer hs he hp hw).symm

/-- On a loaded event the answer of the command before does not matter. -/
theorem exec_rdNextgbt_withResult_of_loaded (hs : s.fault = none) (he : s.rdEof = false) (hp : s.rdPhase = .loaded)
    (r : Answer) : exec .rdNextgbt (s.withResult r) = exec .rdNextgbt s := by
  obtain hsize | hsize := Nat.eq_zero_or_pos s.size
  · exact (exec_rdNextgbt_of_empty (s := s.withResult r) hs he hp hsize).trans (exec_rdNextgbt_of_empty hs he hp hsize).symm
  · by_cases hsop : SopStands s
    · rw [exec_rdNextgbt_of_sopStands (s := s.withResult r) hs he hp hsop, exec_rdNextgbt_of_sopStands hs he hp hsop]
      exact exec_rdNextgbt_withResult_of_inEvent (s := { s with gbtPos := 44, rdPhase := .inEvent }) hs he rfl r
    · exact (exec_rdNextgbt_of_not_sopStands (s := s.withResult r) hs he hp hsize hsop).trans
        (exec_rdNextgbt_of_not_sopStands hs he hp hsize hsop).symm

/-- Before an event: a frame is read, its fatal or its end of source answered, else the command goes on from the event loaded
(42_gbt_extractor.md R114). -/
theorem exec_rdNextgbt_of_needEvent (hs : s.fault = none) (he : s.rdEof = false) (hp : s.rdPhase = .needEvent) {t : State}
    (ht : exec .rdNextevent s = .next t) :
    (t.fault ≠ none → exec .rdNextgbt s = .next t) ∧
    (t.result = .returned .eof .nothing → exec .rdNextgbt s = .next t) ∧
    (t.fault = none → t.rdPhase = .loaded → exec .rdNextgbt s = exec .rdNextgbt t) := by
  have hframe := nextEvent_outcome s
  rw [exec_rdNextevent hs] at ht
  rw [exec_rdNextgbt hs, nextGbt_of_needEvent he hp, gbtNeedEvent]
  cases hr : nextEvent s with
  | fatal c u =>
    rw [hr] at ht hframe
    obtain rfl := Host.Outcome.next.inj ht
    exact ⟨fun _ => rfl, fun _ => rfl, fun hf => absurd hf hframe⟩
  | done r u =>
    rw [hr] at ht hframe
    obtain rfl := Host.Outcome.next.inj ht
    cases r with
    | eof =>
      refine ⟨fun _ => rfl, fun _ => rfl, fun hf _ => ?_⟩
      rw [exec_rdNextgbt_of_done hf (nextGbt_of_rdEof hframe)]
      rfl
    | event hb pb n =>
      obtain ⟨hfault, heof⟩ := hframe
      have hu : u.fault = none := hfault.trans hs
      have hue : u.rdEof = false := heof.trans he
      refine ⟨fun hf => absurd hu hf, fun hanswer => absurd hanswer (by simp [EventReply.answer, ok]), fun _ hl => ?_⟩
      rw [exec_rdNextgbt_withResult_of_loaded hu hue hl, exec_rdNextgbt hu, nextGbt_of_loaded hue hl]
      rfl

/-- Settles O39, phase by phase. -/
theorem nextGbtWalksEvent : Obligations.NextGbtWalksEvent := by
  intro s hs
  refine ⟨rfl, fun he => exec_rdNextgbt_of_done hs (nextGbt_of_rdEof he),
    fun he hp t ht => exec_rdNextgbt_of_needEvent hs he hp ht, fun he hp => ?loaded, fun he hp => ?inEvent⟩
  case loaded =>
    exact ⟨exec_rdNextgbt_of_empty hs he hp, exec_rdNextgbt_of_not_sopStands hs he hp, exec_rdNextgbt_of_sopStands hs he hp⟩
  case inEvent => exact ⟨exec_rdNextgbt_of_window hs he hp, exec_rdNextgbt_of_trailer hs he hp⟩

/-! ### The walk over an event (42_gbt_extractor.md R118) -/

/-- One execution more. -/
theorem repeated_succ {i : Instr} {n : Nat} {t u : State} (hn : repeated i n s = some t) (ht : exec i t = .next u) :
    repeated i (n + 1) s = some u := by
  induction n generalizing s with
  | zero =>
    obtain rfl := Option.some.inj hn
    simp [repeated, ht]
  | succ n ih =>
    rw [repeated] at hn ⊢
    cases hs : exec i s with
    | next v =>
      rw [hs] at hn
      exact ih hn
    | fault c => simp [hs] at hn
    | refused r => simp [hs] at hn

/-- The event loaded in `s` with `n` of its words read, the command before having answered `r`. -/
def State.walked (s : State) (n : Nat) (r : Answer) : State :=
  { s with rdPhase := .inEvent, gbtPos := 44 + 16 * n, gbtWords := s.gbtWords + n, result := r }

/-- Window `n` is the next word of the walk when it is one of the event's windows. -/
theorem exec_walked_of_lt (hs : s.fault = none) (he : s.rdEof = false) {n : Nat} (hn : n < windowCount s.size) (r : Answer) :
    exec .rdNextgbt (s.walked n r) = .next (s.walked (n + 1) (.returned .ok (.gbt (windowWord s (44 + 16 * n))))) := by
  have hw : 44 + 16 * n + 16 + 32 ≤ s.size := by
    unfold windowCount at hn
    omega
  exact exec_rdNextgbt_of_window (s := s.walked n r) hs he rfl hw

/-- After the last window the event ends. -/
theorem exec_walked_windowCount (hs : s.fault = none) (he : s.rdEof = false) (hsize : 44 ≤ s.size) (r : Answer) :
    exec .rdNextgbt (s.walked (windowCount s.size) r) =
      returns { s.walked (windowCount s.size) r with rdPhase := .needEvent } .errEndOfEvent .nothing := by
  have hw : s.size < 44 + 16 * windowCount s.size + 16 + 32 := by
    unfold windowCount
    omega
  exact exec_rdNextgbt_of_trailer (s := s.walked (windowCount s.size) r) hs he rfl hw

/-- After as many commands as it has windows read, the next one does what it does in the walk. -/
theorem repeated_rdNextgbt (hs : s.fault = none) (he : s.rdEof = false) (hp : s.rdPhase = .loaded) (hsop : SopStands s)
    {n : Nat} (hn : n ≤ windowCount s.size) :
    ∃ t r, repeated .rdNextgbt n s = some t ∧ exec .rdNextgbt t = exec .rdNextgbt (s.walked n r) := by
  induction n with
  | zero => exact ⟨s, s.result, rfl, exec_rdNextgbt_of_sopStands hs he hp hsop⟩
  | succ n ih =>
    obtain ⟨t, r, hrep, hexec⟩ := ih (by omega)
    exact ⟨_, _, repeated_succ hrep (hexec.trans (exec_walked_of_lt hs he hn r)), rfl⟩

end

/-- Settles O40, by induction on the number of words read. -/
theorem eventYieldsItsWords : Obligations.EventYieldsItsWords := by
  intro s hs he hp hsop
  constructor
  · intro k hk
    obtain ⟨t, r, hrep, hexec⟩ := repeated_rdNextgbt hs he hp hsop hk.le
    exact ⟨t, _, hrep, hexec.trans (exec_walked_of_lt hs he hk r), rfl⟩
  · obtain ⟨t, r, hrep, hexec⟩ := repeated_rdNextgbt hs he hp hsop le_rfl
    exact ⟨t, _, hrep, hexec.trans (exec_walked_windowCount hs he hsop.1 r), rfl, rfl, rfl, rfl, rfl⟩

end Sys2Proof.Machine
end

section
/-! What Dispatch sends (43_dispatch.md R120, R125, R126): the bits of a GBT word, the order in which the elinks are visited, and that
the loops of `DSP.WORD` are the `EL.APPEND`s of the pairs, executed one after another. -/

namespace Sys2Proof.Machine

open Sys2Proof.Claims

/-! ### The bits of a GBT word -/

/-- Bit `k` of the value of the first `n` bytes is bit `k mod 8` of byte `k / 8` (20_memory.md R53). -/
theorem testBit_sum_bytes (g : List Byte) (n k : Nat) :
    (∑ i ∈ Finset.range n, (g.getD i 0).toNat * 2 ^ (8 * i)).testBit k = (decide (k < 8 * n) && bytesBit g k) := by
  induction n generalizing k with
  | zero => simp
  | succ n ih =>
    have hlt : ∑ i ∈ Finset.range n, (g.getD i 0).toNat * 2 ^ (8 * i) < 2 ^ (8 * n) :=
      Nat.lt_pow_two_of_testBit _ fun j hj => by rw [ih, decide_eq_false hj.not_gt, Bool.false_and]
    rw [Finset.sum_range_succ, Nat.add_comm, Nat.mul_comm, Nat.testBit_two_pow_mul_add _ hlt]
    by_cases hbelow : k < 8 * n
    · rw [if_pos hbelow, ih, decide_eq_true hbelow, decide_eq_true (by omega)]
    · rw [if_neg hbelow, BitVec.testBit_toNat]
      by_cases hin : k < 8 * (n + 1)
      · simp [hin, bytesBit, show k / 8 = n by omega, show k % 8 = k - 8 * n by omega]
      · simp [hin, BitVec.getLsbD_of_ge _ _ (show 8 ≤ k - 8 * n by omega)]

theorem testBit_wordValue (g : List Byte) {i k : Nat} (hi : i < 10) (hk : k < 8) :
    (wordValue g).testBit (8 * i + k) = (byteAt g i).getLsbD k := by
  rw [wordValue, testBit_sum_bytes, bytesBit, byteAt, show (8 * i + k) / 8 = i by omega, show (8 * i + k) % 8 = k by omega]
  simp [show 8 * i + k < 8 * 10 by omega]

/-! ### The elinks visited -/

/-- The elink a pair of loop indices stands for. -/
def visited (iq : Nat × Nat) : ElinkId := pairElink iq.1 iq.2

theorem mem_visitOrder {n : Nat} {iq : Nat × Nat} : iq ∈ visitOrder n ↔ iq.1 < n ∧ iq.2 < 4 := by
  simp only [visitOrder, List.mem_flatMap, List.mem_map, List.mem_range]
  constructor
  · rintro ⟨i, hi, q, hq, rfl⟩
    exact ⟨hi, hq⟩
  · rintro ⟨hi, hq⟩
    exact ⟨iq.1, hi, iq.2, hq, rfl⟩

/-- The indices stay below 40, so the elink number is not wrapped (43_dispatch.md R123). -/
theorem visited_val {iq : Nat × Nat} (hi : iq.1 < 10) (hq : iq.2 < 4) : (visited iq).val = 4 * iq.1 + iq.2 :=
  Nat.mod_eq_of_lt (by omega)

/-- The loops visit the served elinks once each, in ascending order (43_dispatch.md R123, R126). -/
theorem map_visited_visitOrder {n : Nat} (hn : n ≤ 10) :
    (visitOrder n).map visited = (List.finRange 40).filter fun e => decide (e.val < 4 * n) := by
  interval_cases n <;> decide

/-! ### The pairs as instructions -/

/-- `bit0 = W[2e + 1]` of the pair that the word `g` holds for elink `e` (43_dispatch.md R125). -/
def pairBit0 (g : List Byte) (e : ElinkId) : Bool := (wordValue g).testBit (2 * e.val + 1)

/-- `bit1 = W[2e]` of that pair (43_dispatch.md R125). -/
def pairBit1 (g : List Byte) (e : ElinkId) : Bool := (wordValue g).testBit (2 * e.val)

/-- The `EL.APPEND` of that pair. -/
def pairAppend (g : List Byte) (e : ElinkId) : Instr := .elAppend e (pairBit0 g e) (pairBit1 g e)

/-- The elinks that receive a pair, in ascending order (43_dispatch.md R123, R124). -/
def receivers (s : State) : List ElinkId := (List.finRange 40).filter fun e => decide (Receives s e)

theorem mem_receivers {s : State} {e : ElinkId} : e ∈ receivers s ↔ Receives s e := by simp [receivers]

theorem receivers_nodup (s : State) : (receivers s).Nodup := (List.nodup_finRange 40).filter _

theorem wordAppends_eq (s : State) (g : List Byte) : wordAppends s g = (receivers s).map (pairAppend g) := rfl

/-- The elinks visited that are not masked are those that receive a pair. -/
theorem receivers_eq {s : State} (hn : s.config.nDispatchBytes ≤ 10) :
    receivers s = ((visitOrder s.config.nDispatchBytes).map visited).filter fun e => !s.mask.getLsbD e.val := by
  rw [map_visited_visitOrder hn, List.filter_filter, receivers]
  exact List.filter_congr fun e _ => by rw [Bool.decide_and, Bool.and_comm, Bool.decide_eq_false]

section
variable {s : State} {g : List Byte} {iq : Nat × Nat}

theorem dispatchPair_of_masked (hm : s.mask.getLsbD (visited iq).val = true) :
    dispatchPair g iq.1 iq.2 s = .done none s := if_pos hm

/-- Byte `i` of the word holds the pairs of the elinks `4 i .. 4 i + 3` (43_dispatch.md R120, R125). -/
theorem dispatchPair_of_not_masked (hi : iq.1 < 10) (hq : iq.2 < 4) (hm : s.mask.getLsbD (visited iq).val = false) :
    dispatchPair g iq.1 iq.2 s = append (visited iq) (pairBit0 g (visited iq)) (pairBit1 g (visited iq)) s := by
  have hodd : 2 * (visited iq).val + 1 = 8 * iq.1 + (2 * iq.2 + 1) := by
    rw [visited_val hi hq]
    ring
  have heven : 2 * (visited iq).val = 8 * iq.1 + 2 * iq.2 := by
    rw [visited_val hi hq]
    ring
  rw [pairBit0, pairBit1, hodd, heven, testBit_wordValue g hi (by omega), testBit_wordValue g hi (by omega)]
  exact if_neg (Bool.eq_false_iff.1 hm)

end

/-! ### The commands -/

theorem exec_dspWord_eq_command (g : List Byte) (s : State) :
    exec (.dspWord g) s = command s fun s => (dispatchWord g s).map DispatchReply.answer := rfl

theorem exec_dspClearall_eq_command (s : State) :
    exec .dspClearall s = command s fun s => .done (ok .nothing) (clearAll s) := rfl

theorem exec_plStep_eq_command (s : State) : exec .plStep s = command s pipelineStep := rfl

theorem dispatchWord_of_length_ne {s : State} {g : List Byte} (hg : g.length ≠ 10) :
    dispatchWord g s = .done .incorrectSize s := if_pos hg

theorem dispatchWord_of_length_eq {s : State} {g : List Byte} (hg : g.length = 10) :
    dispatchWord g s = (dispatchPairs g (visitOrder s.config.nDispatchBytes) [] s).map .packets := if_neg (not_not_intro hg)

/-! ### One `EL.APPEND` -/

/-- How an append ends: the fatal it raised is recorded, or the block has the fault and the mask it had before. -/
theorem append_cases (e : ElinkId) (v0 v1 : Bool) (s : State) :
    (∃ c u, append e v0 v1 s = .fatal c u ∧ u.fault ≠ none) ∨
      ∃ p u, append e v0 v1 s = .done p u ∧ u.fault = s.fault ∧ u.mask = s.mask := by
  rw [append_eq, ElinkEffect.run]
  split
  · exact .inl ⟨_, _, rfl, Option.some_ne_none _⟩
  · exact .inr ⟨_, _, rfl, rfl, rfl⟩

/-- What the last command answered makes no difference to an effect but for the answer recorded (log 5). -/
theorem ElinkEffect.finish_run_withResult (x : ElinkEffect) (e : ElinkId) (s : State) (r : Answer) :
    finish (packetAnswer (x.run e (s.withResult r))) = finish (packetAnswer (x.run e s)) := by
  cases hx : x.fatal with
  | none => simp only [ElinkEffect.run, hx]; rfl
  | some c => simp only [ElinkEffect.run, hx]; rfl

theorem exec_elAppend_eq_command (e : ElinkId) (v0 v1 : Bool) (s : State) :
    exec (.elAppend e v0 v1) s = command s fun s => packetAnswer (append e v0 v1 s) := rfl

theorem exec_elAppend {s : State} (hs : s.fault = none) (e : ElinkId) (v0 v1 : Bool) :
    exec (.elAppend e v0 v1) s = finish (packetAnswer (append e v0 v1 s)) := by
  rw [exec_elAppend_eq_command, command_of_unfaulted hs]

theorem exec_elAppend_withResult {s : State} (hs : s.fault = none) (e : ElinkId) (v0 v1 : Bool) (r : Answer) :
    exec (.elAppend e v0 v1) (s.withResult r) = finish (packetAnswer (append e v0 v1 s)) := by
  rw [exec_elAppend (s := s.withResult r) hs, append_eq, append_eq]
  exact ElinkEffect.finish_run_withResult ..

/-! ### The loops -/

section
variable {s t : State} {i : Instr} {is : List Instr}

theorem feed_cons_of_unfaulted (ht : exec i s = .next t) (hf : t.fault = none) :
    feed (i :: is) s = (packetsOf t.result ++ (feed is t).1, (feed is t).2) := by simp [feed, ht, hf]

theorem feed_cons_of_faulted (ht : exec i s = .next t) (hf : t.fault ≠ none) : feed (i :: is) s = ([], t) := by
  simp [feed, ht, hf]

end

@[simp] theorem packetsOf_ok_packet (p : Option Packet) : packetsOf (ok (.packet p)) = p.toList := by cases p <;> rfl

/-- The answer of a `DSP.WORD` that has collected the packets `ps` and then runs as a feed does: with a fault the feed's own end,
else OK with all the packets. -/
def feedOutcome (ps : List Packet) (f : List Packet × State) : Out :=
  if f.2.fault = none then returns f.2 .ok (.packets (ps ++ f.1)) else .next f.2

/-- The loops over the pairs left are the feed of the `EL.APPEND`s of those not masked, from any last answer. -/
theorem finish_dispatchPairs (g : List Byte) {l : List (Nat × Nat)} (hl : ∀ iq ∈ l, iq.1 < 10 ∧ iq.2 < 4) (ps : List Packet)
    {s : State} (hs : s.fault = none) (r : Answer) :
    finish (((dispatchPairs g l ps s).map .packets).map DispatchReply.answer) =
      feedOutcome ps (feed (((l.map visited).filter fun e => !s.mask.getLsbD e.val).map (pairAppend g)) (s.withResult r)) := by
  induction l generalizing ps s r with
  | nil => simp [dispatchPairs, feed, feedOutcome, hs, DispatchReply.answer, returns, ok, State.withResult]
  | cons iq rest ih =>
    obtain ⟨⟨hi, hq⟩, hrest⟩ := List.forall_mem_cons.1 hl
    rw [dispatchPairs, List.map_cons]
    cases hm : s.mask.getLsbD (visited iq).val with
    | true =>
      rw [dispatchPair_of_masked hm, List.filter_cons_of_neg (by rw [hm]; decide), Run.bind_done, Option.toList_none,
        List.append_nil]
      exact ih hrest ps hs r
    | false =>
      rw [dispatchPair_of_not_masked hi hq hm, List.filter_cons_of_pos (by rw [hm]; rfl), List.map_cons]
      have hexec := exec_elAppend_withResult hs (visited iq) (pairBit0 g (visited iq)) (pairBit1 g (visited iq)) r
      obtain ⟨c, u, hrun, hu⟩ | ⟨p, u, hrun, hfault, hmask⟩ :=
        append_cases (visited iq) (pairBit0 g (visited iq)) (pairBit1 g (visited iq)) s
      · rw [hrun] at hexec ⊢
        rw [pairAppend, feed_cons_of_faulted hexec hu]
        exact (if_neg hu).symm
      · have hu := hfault.trans hs
        rw [hrun] at hexec ⊢
        rw [pairAppend, feed_cons_of_unfaulted hexec hu, Run.bind_done, ih hrest _ hu (ok (.packet p)), hmask]
        simp only [feedOutcome, State.withResult_result, packetsOf_ok_packet, List.append_assoc]

/-- `DSP.WORD` of ten bytes is the feed of the word's `EL.APPEND`s. -/
theorem exec_dspWord_eq_feedOutcome {s : State} {g : List Byte} (hs : s.fault = none) (hn : s.config.nDispatchBytes ≤ 10)
    (hg : g.length = 10) : exec (.dspWord g) s = feedOutcome [] (feed (wordAppends s g) s) := by
  have hvisit : ∀ iq ∈ visitOrder s.config.nDispatchBytes, iq.1 < 10 ∧ iq.2 < 4 := fun iq hiq => by
    obtain ⟨hi, hq⟩ := mem_visitOrder.1 hiq
    exact ⟨by omega, hq⟩
  calc exec (.dspWord g) s
      = finish (((dispatchPairs g (visitOrder s.config.nDispatchBytes) [] s).map .packets).map DispatchReply.answer) := by
        rw [exec_dspWord_eq_command, command_of_unfaulted hs, dispatchWord_of_length_eq hg]
    _ = feedOutcome [] (feed (wordAppends s g) s) := by
        rw [finish_dispatchPairs g hvisit [] hs s.result, ← receivers_eq hn, wordAppends_eq]
        rfl

end Sys2Proof.Machine
end

section
/-! A pair stored short of the checkpoint (43_dispatch.md R125, 44_elink.md R127, R128): the bank after one `EL.APPEND`, and the block
after those of a whole word. -/

namespace Sys2Proof.Machine

open Sys2Proof.Claims

/-- The bank with the pair `v0`, `v1` stored, where neither bit needs growth or reaches the checkpoint. -/
def Elink.storePair (b : Elink) (v0 v1 : Bool) : Elink := (b.store b.bits v0).store (b.store b.bits v0).bits v1

theorem Elink.pushEffect_of_room {b : Elink} (max : Nat) (e : ElinkId) (v : Bool) (hcap : b.bits.len + 1 ≤ b.bits.cap)
    (hcp : b.bits.len + 1 < b.checkpoint) : b.pushEffect max e v = ⟨b.store b.bits v, [], none⟩ := by
  have hlen : (b.store b.bits v).bits.len ≠ (b.store b.bits v).checkpoint := by
    simp only [Elink.store, Container.set_len]
    omega
  simp only [Elink.pushEffect, Container.grow_of_le hcap, if_neg hlen]

theorem Elink.appendEffect_of_room {b : Elink} (max : Nat) (e : ElinkId) (v0 v1 : Bool) (hcap : b.bits.len + 2 ≤ b.bits.cap)
    (hcp : b.bits.len + 2 < b.checkpoint) : b.appendEffect max e v0 v1 = ⟨b.storePair v0 v1, [], none⟩ := by
  have hlen : (b.store b.bits v0).bits.len = b.bits.len + 1 := by simp [Elink.store]
  have hsecond := Elink.pushEffect_of_room (b := b.store b.bits v0) max e v1 (by rw [hlen]; exact hcap) (by rw [hlen]; exact hcp)
  simp only [Elink.appendEffect, Elink.pushEffect_of_room (b := b) max e v0 (by omega) (by omega), hsecond]
  rfl

/-- The two bits stand after the others, `v0` first. -/
theorem fedPair_storePair {b : Elink} (v0 v1 : Bool) (hw : b.bits.WF) (hcap : b.bits.len + 2 ≤ b.bits.cap) :
    FedPair b v0 v1 (b.storePair v0 v1) := by
  have hlen : (b.bits.set b.bits.len v0).len = b.bits.len + 1 := by simp
  have hw0 : (b.bits.set b.bits.len v0).WF := Container.set_WF hw v0 (by omega)
  refine ⟨_, ⟨Container.set_WF hw0 v1 ?_, ?_, rfl, fun n => ?_⟩, rfl⟩
  · rw [Elink.store, hlen]
    exact hcap
  · simp [Elink.store]
  · simp only [Elink.store, Container.set_bit, hlen, old_eq_bit hw]
    by_cases hn : n = b.bits.len
    · simp [hn]
    · simp [hn]

theorem exec_elAppend_of_room {s : State} {e : ElinkId} (hs : s.fault = none) (hroom : HasRoom s e) (v0 v1 : Bool) :
    exec (.elAppend e v0 v1) s = .next ((s.withElink e ((s.elink e).storePair v0 v1)).withResult (ok (.packet none))) := by
  obtain ⟨-, hcp, hcap⟩ := hroom
  rw [exec_elAppend hs, append_eq, Elink.appendEffect_of_room _ _ _ _ hcap hcp]
  simp [ElinkEffect.run, packetAnswer]

/-- The `EL.APPEND`s of a word to distinct elinks with room: no packet, the pairs stored, nothing else changed. -/
theorem feed_pairAppends_of_room (g : List Byte) {es : List ElinkId} (hes : es.Nodup) {s : State} (hs : s.fault = none)
    (hroom : ∀ e ∈ es, HasRoom s e) :
    ∃ t, feed (es.map (pairAppend g)) s = ([], t) ∧ t = { s with elinks := t.elinks, result := t.result } ∧
      ∀ e, t.elink e = if e ∈ es then (s.elink e).storePair (pairBit0 g e) (pairBit1 g e) else s.elink e := by
  induction es generalizing s with
  | nil => exact ⟨s, rfl, rfl, fun e => by simp⟩
  | cons a es ih =>
    obtain ⟨ha, hes⟩ := List.nodup_cons.1 hes
    obtain ⟨hrooma, hroom⟩ := List.forall_mem_cons.1 hroom
    have hexec := exec_elAppend_of_room hs hrooma (pairBit0 g a) (pairBit1 g a)
    generalize hu : (s.withElink a _).withResult _ = u at hexec
    have hfault : u.fault = none := by rw [← hu]; exact hs
    have hother : ∀ e, e ≠ a → u.elink e = s.elink e := fun e he => by rw [← hu]; simp [he]
    obtain ⟨t, hfeed, hframe, hbanks⟩ := ih hes hfault fun e he => by
      have hne : e ≠ a := fun h => ha (h ▸ he)
      simpa only [HasRoom, hother e hne] using hroom e he
    refine ⟨t, ?_, ?_, fun e => ?_⟩
    · rw [List.map_cons, pairAppend, feed_cons_of_unfaulted hexec hfault, hfeed, ← hu]
      rfl
    · rw [hframe, ← hu]
      rfl
    · rw [hbanks]
      by_cases he : e = a
      · subst he
        simp [ha, ← hu]
      · simp [he, hother e he]

end Sys2Proof.Machine
end

section
/-! What Dispatch, the reader and the extractor leave alone: an elink that gets no pair keeps its bank (43_dispatch.md R123, R124), and
the reader writes its own fields and the fault only (41_frame_reader.md R105, 42_gbt_extractor.md R114). -/

namespace Sys2Proof.Machine

open Sys2Proof.Claims

/-! ### Dispatch -/

/-- `u` has the bank of elink `e`, the mask and the parameters of `s`. -/
def State.KeepsBank (e : ElinkId) (s u : State) : Prop := u.elink e = s.elink e ∧ u.mask = s.mask ∧ u.config = s.config

theorem State.KeepsBank.refl (e : ElinkId) (s : State) : s.KeepsBank e s := ⟨rfl, rfl, rfl⟩

theorem State.KeepsBank.trans {e : ElinkId} {s t u : State} (h : s.KeepsBank e t) (h' : t.KeepsBank e u) : s.KeepsBank e u := by
  obtain ⟨hb, hm, hc⟩ := h
  obtain ⟨hb', hm', hc'⟩ := h'
  exact ⟨hb'.trans hb, hm'.trans hm, hc'.trans hc⟩

theorem Run.Ends.after_keepsBank {α : Type} {x : Run α} {e : ElinkId} {s u : State} (hx : x.Ends (u.KeepsBank e))
    (h : s.KeepsBank e u) : x.Ends (s.KeepsBank e) := by
  cases x with
  | done a t => exact h.trans hx
  | fatal c t => exact h.trans hx

/-- An operation on one elink keeps the bank of every other (44_elink.md R146). -/
theorem append_keepsBank {e e' : ElinkId} (he : e ≠ e') (v0 v1 : Bool) (s : State) :
    (append e' v0 v1 s).Ends (s.KeepsBank e) := by
  rw [append_eq]
  generalize (s.elink e').appendEffect _ _ _ _ = x
  have hkeep : s.KeepsBank e (s.afterElink e' x.bank x.out) := ⟨by simp [he], rfl, rfl⟩
  unfold ElinkEffect.run
  split <;> exact hkeep

theorem dispatchPair_keepsBank {e : ElinkId} {s : State} (g : List Byte) {iq : Nat × Nat}
    (h : visited iq = e → s.mask.getLsbD e.val = true) : (dispatchPair g iq.1 iq.2 s).Ends (s.KeepsBank e) := by
  by_cases he : visited iq = e
  · rw [dispatchPair_of_masked (by rw [he]; exact h he)]
    exact .refl e s
  · unfold dispatchPair
    split
    · exact .refl e s
    · exact append_keepsBank (Ne.symm he) _ _ s

theorem dispatchPairs_keepsBank {e : ElinkId} {s : State} (g : List Byte) {l : List (Nat × Nat)}
    (h : ∀ iq ∈ l, visited iq = e → s.mask.getLsbD e.val = true) (ps : List Packet) :
    (dispatchPairs g l ps s).Ends (s.KeepsBank e) := by
  induction l generalizing ps s with
  | nil => exact .refl e s
  | cons iq rest ih =>
    obtain ⟨hiq, hrest⟩ := List.forall_mem_cons.1 h
    refine (dispatchPair_keepsBank g hiq).bind (fun p u _ hu => ?_) fun _ _ _ hu => hu
    have ⟨_, hmask, _⟩ := hu
    exact (ih (by rwa [hmask]) _).after_keepsBank hu

/-- Only a masked elink that receives no pair is visited at all. -/
theorem dispatchWord_keepsBank {e : ElinkId} {s : State} (hn : s.config.nDispatchBytes ≤ 10) (he : ¬ Receives s e)
    (g : List Byte) : (dispatchWord g s).Ends (s.KeepsBank e) := by
  unfold dispatchWord
  split
  · exact .refl e s
  · refine Run.ends_map.2 (dispatchPairs_keepsBank g (fun iq hiq hvis => ?_) [])
    obtain ⟨hi, hq⟩ := mem_visitOrder.1 hiq
    have hserved : e.val < 4 * s.config.nDispatchBytes := by
      rw [← hvis, visited_val (by omega) hq]
      omega
    by_contra hmask
    exact he ⟨hserved, Bool.eq_false_iff.2 hmask⟩

/-! ### The reader and the extractor -/

/-- The state with the fields that the reader and the extractor write blanked: two states agree outside of them when these are
equal. -/
def State.outsideReader (s : State) : State :=
  { s with
    fault := none, inPos := 0, rdPhase := .needEvent, rdEof := false, hdr := Vector.replicate 80 0, payload := [], size := 0,
    gbtPos := 0, eventsRead := 0, gbtWords := 0 }

section
variable (s : State)

@[simp] theorem State.outsideReader_withFault (c : FatalCode) : (s.withFault c).outsideReader = s.outsideReader := rfl
@[simp] theorem State.outsideReader_withPhase (p : RdPhase) : (s.withPhase p).outsideReader = s.outsideReader := rfl
@[simp] theorem State.outsideReader_endSource : s.endSource.outsideReader = s.outsideReader := rfl
@[simp] theorem State.outsideReader_withHdr (v : Vector Byte 80) : (s.withHdr v).outsideReader = s.outsideReader := rfl
@[simp] theorem State.outsideReader_withPayload (m : Memory) : (s.withPayload m).outsideReader = s.outsideReader := rfl
@[simp] theorem State.outsideReader_withSize (n : Nat) : (s.withSize n).outsideReader = s.outsideReader := rfl
@[simp] theorem State.outsideReader_withGbtPos (n : Nat) : (s.withGbtPos n).outsideReader = s.outsideReader := rfl
@[simp] theorem State.outsideReader_countGbt : s.countGbt.outsideReader = s.outsideReader := rfl
@[simp] theorem State.outsideReader_acceptEvent : s.acceptEvent.outsideReader = s.outsideReader := rfl
@[simp] theorem State.outsideReader_streamRead (n : Nat) : (streamRead n s).2.outsideReader = s.outsideReader := rfl
@[simp] theorem State.outsideReader_elink (e : ElinkId) : s.outsideReader.elink e = s.elink e := rfl
@[simp] theorem State.outsideReader_mask : s.outsideReader.mask = s.mask := rfl
@[simp] theorem State.outsideReader_config : s.outsideReader.config = s.config := rfl

end

/-- A body that writes the reader's fields only. -/
def Run.ReaderOnly {α : Type} (x : Run α) (s : State) : Prop := x.Ends fun u => u.outsideReader = s.outsideReader

section
variable {α : Type} {s u : State}

@[simp] theorem Run.readerOnly_done (a : α) : (Run.done a u).ReaderOnly s ↔ u.outsideReader = s.outsideReader := Iff.rfl
@[simp] theorem Run.readerOnly_raise (c : FatalCode) : (raise c u : Run α).ReaderOnly s ↔ u.outsideReader = s.outsideReader :=
  Iff.rfl

theorem Run.ReaderOnly.after {x : Run α} (hx : x.ReaderOnly u) (h : u.outsideReader = s.outsideReader) : x.ReaderOnly s := by
  rwa [Run.ReaderOnly, ← h]

end

theorem readPayload_readerOnly (hb : List Byte) (L : Nat) (s : State) : (readPayload hb L s).ReaderOnly s := by
  unfold readPayload
  split
  · simp
  · dsimp only
    split
    · simp
    · split <;> simp

theorem readFrame_readerOnly (hb : List Byte) (s : State) : (readFrame hb s).ReaderOnly s := by
  unfold readFrame
  dsimp only
  split
  · simp
  · split
    · simp
    · split
      · simp
      · exact (readPayload_readerOnly ..).after (by simp)

theorem nextEvent_readerOnly (s : State) : (nextEvent s).ReaderOnly s := by
  unfold nextEvent
  split
  · simp
  · dsimp only
    split
    · simp
    · split
      · simp
      · exact (readFrame_readerOnly ..).after (by simp)

theorem gbtWindow_readerOnly (s : State) : (gbtWindow s).ReaderOnly s := by
  unfold gbtWindow
  split <;> simp

theorem gbtLoaded_readerOnly (s : State) : (gbtLoaded s).ReaderOnly s := by
  unfold gbtLoaded
  split
  · simp
  · split
    · exact (gbtWindow_readerOnly _).after (by simp)
    · simp

theorem gbtNeedEvent_readerOnly (s : State) : (gbtNeedEvent s).ReaderOnly s :=
  Run.Ends.bind (nextEvent_readerOnly s)
    (fun r u _ hu => by
      cases r with
      | eof => exact hu
      | event => exact (gbtLoaded_readerOnly u).after hu)
    fun _ _ _ hu => hu

/-- The extractor writes the reader's fields only, in every phase. -/
theorem nextGbt_readerOnly (s : State) : (nextGbt s).ReaderOnly s := by
  unfold nextGbt
  split
  · simp
  · cases s.rdPhase with
    | needEvent => exact gbtNeedEvent_readerOnly s
    | loaded => exact gbtLoaded_readerOnly s
    | inEvent => exact gbtWindow_readerOnly s

theorem State.keepsBank_of_outsideReader {s u : State} (h : u.outsideReader = s.outsideReader) (e : ElinkId) :
    s.KeepsBank e u :=
  ⟨by simpa using congrArg (State.elink · e) h, by simpa using congrArg State.mask h, by simpa using congrArg State.config h⟩

/-! ### `PL.STEP` -/

/-- What `PL.STEP` does on every answer of the extractor but the end of an event. -/
theorem stepOn_keepsBank {e : ElinkId} {s : State} (hn : s.config.nDispatchBytes ≤ 10) (he : ¬ Receives s e) {r : GbtReply}
    (hr : r ≠ .endOfEvent) : (stepOn r s).Ends (s.KeepsBank e) := by
  cases r with
  | word g => exact Run.ends_map.2 (dispatchWord_keepsBank hn he g)
  | endOfEvent => exact absurd rfl hr
  | emptyEvent => exact .refl e s
  | invalidSop => exact .refl e s
  | eof => exact ⟨rfl, rfl, rfl⟩

/-- A `PL.STEP` that does not answer ERR_END_OF_EVENT keeps the bank of an elink that receives no pair. -/
theorem pipelineStep_keepsBank {e : ElinkId} {s : State} (hn : s.config.nDispatchBytes ≤ 10) (he : ¬ Receives s e) :
    (∃ u, pipelineStep s = .done (.returned .errEndOfEvent .nothing) u) ∨ (pipelineStep s).Ends (s.KeepsBank e) := by
  unfold pipelineStep
  split
  · exact .inr (.refl e s)
  · have hread := nextGbt_readerOnly s
    cases hx : nextGbt s with
    | fatal c u =>
      rw [hx] at hread
      exact .inr (State.keepsBank_of_outsideReader hread e)
    | done r u =>
      rw [hx] at hread
      have hkeep := State.keepsBank_of_outsideReader hread e
      by_cases hr : r = .endOfEvent
      · subst hr
        exact .inl ⟨_, rfl⟩
      · have ⟨_, hmask, hconfig⟩ := hkeep
        exact .inr ((stepOn_keepsBank (by rwa [hconfig]) (by rwa [Receives, hmask, hconfig]) hr).after_keepsBank hkeep)

/-- A command keeps the bank of an elink when it is refused, or its body keeps it. -/
theorem elink_of_command {e : ElinkId} {s t : State} {body : State → Run Answer} (ht : command s body = .next t)
    (hbody : s.fault = none → (body s).Ends (s.KeepsBank e)) : t.elink e = s.elink e := by
  cases hs : s.fault with
  | some c =>
    rw [command_of_faulted hs] at ht
    obtain rfl := Host.Outcome.next.inj ht
    rfl
  | none =>
    have hkeep := hbody hs
    rw [command_of_unfaulted hs] at ht
    cases hrun : body s with
    | done a u =>
      rw [hrun] at ht hkeep
      obtain rfl := Host.Outcome.next.inj ht
      exact hkeep.1
    | fatal c u =>
      rw [hrun] at ht hkeep
      obtain rfl := Host.Outcome.next.inj ht
      exact hkeep.1

end Sys2Proof.Machine
end

section
/-! The statements of 43_dispatch.md: the pairs of a GBT word and the elinks they go to. -/

namespace Sys2Proof.Machine

open Sys2Proof.Claims

/-- Settles O41: by induction on the pairs left, the loops are the feed of the `EL.APPEND`s. -/
theorem dspWordIsAppends : Obligations.DspWordIsAppends := by
  intro s g hs hn
  refine ⟨rfl, fun hg => ?_, fun ps t hg hfeed => ?_⟩
  · rw [exec_dspWord_eq_command, command_of_unfaulted hs, dispatchWord_of_length_ne hg]
    rfl
  · rw [exec_dspWord_eq_feedOutcome hs hn hg, hfeed]
    exact ⟨fun ht => if_pos ht, fun ht => if_neg ht⟩

/-- Settles O42: the word is its `EL.APPEND`s, and each of them finds the room its elink had at first. -/
theorem dspWordDeliversPairs : Obligations.DspWordDeliversPairs := by
  intro s g hs hn hg hroom
  obtain ⟨t, hfeed, hframe, hbanks⟩ :=
    feed_pairAppends_of_room g (receivers_nodup s) hs fun e he => hroom e (mem_receivers.1 he)
  have hfault : t.fault = none := by
    rw [hframe]
    exact hs
  refine ⟨{ s with elinks := t.elinks }, ?_, rfl, fun e => ⟨fun he => ?_, fun he => ?_⟩⟩
  · rw [exec_dspWord_eq_feedOutcome hs hn hg, wordAppends_eq, hfeed, feedOutcome, if_pos hfault, hframe]
    rfl
  · obtain ⟨hw, -, hcap⟩ := hroom e he
    have hbank : t.elink e = (s.elink e).storePair (pairBit0 g e) (pairBit1 g e) :=
      (hbanks e).trans (if_pos (mem_receivers.2 he))
    exact hbank ▸ fedPair_storePair _ _ hw hcap
  · exact (hbanks e).trans (if_neg (mt mem_receivers.1 he))

/-- Settles O43: Dispatch visits no unserved elink and skips a masked one, and the extractor writes no bank. -/
theorem skippedElinksKeepBanks : Obligations.SkippedElinksKeepBanks := by
  intro s t e hn he
  refine ⟨fun g ht => ?_, fun ht hres => ?_⟩
  · rw [exec_dspWord_eq_command] at ht
    exact elink_of_command ht fun _ => Run.ends_map.2 (dispatchWord_keepsBank hn he g)
  · rw [exec_plStep_eq_command] at ht
    refine elink_of_command ht fun hs => (pipelineStep_keepsBank hn he).resolve_left fun ⟨u, hend⟩ => hres ?_
    rw [command_of_unfaulted hs, hend] at ht
    exact congrArg State.result (Host.Outcome.next.inj ht).symm

/-! ### `DSP.CLEARALL` -/

/-- Force-clearing the elinks of a list: those banks are cleared, every other is as before. -/
theorem foldl_forceClear_elink (es : List ElinkId) (s : State) (e : ElinkId) :
    (es.foldl (fun s e => forceClear e s) s).elink e = if e ∈ es then forceCleared (s.elink e) else s.elink e := by
  induction es generalizing s with
  | nil => simp
  | cons a es ih =>
    rw [List.foldl_cons, ih, forceClear_eq, State.withElink_elink]
    by_cases he : e = a
    · subst he
      simp only [if_true, List.mem_cons, true_or]
      split <;> rfl
    · simp [he]

theorem clearAll_elink (s : State) (e : ElinkId) : (clearAll s).elink e = forceCleared (s.elink e) := by
  rw [clearAll, foldl_forceClear_elink, if_pos (List.mem_finRange e)]

theorem clearAll_frame (s : State) : clearAll s = { s with elinks := (clearAll s).elinks } := by
  unfold clearAll
  induction List.finRange 40 using List.reverseRecOn with
  | nil => rfl
  | append_singleton es e ih =>
    rw [List.foldl_append, ih]
    rfl

theorem clearAll_eq (s : State) : clearAll s = { s with elinks := s.elinks.map forceCleared } := by
  have hbanks : (clearAll s).elinks = s.elinks.map forceCleared := by
    ext1 i hi
    rw [Vector.getElem_map]
    exact clearAll_elink s ⟨i, hi⟩
  rw [clearAll_frame, hbanks]

/-- Settles O44: the loop over all forty elinks. -/
theorem clearallForceClearsEvery : Obligations.ClearallForceClearsEvery := by
  intro s hs
  refine ⟨rfl, ?_⟩
  rw [exec_dspClearall_eq_command, command_of_unfaulted hs, finish_ok, clearAll_eq]

end Sys2Proof.Machine
end

section
/-! The instructions that feed or clear an elink (44_elink.md R127 - R142), each as the effect it runs on the elink's bank, and how a
command that runs an effect ends, in the words of the statements. -/

namespace Sys2Proof.Machine

open Sys2Proof.Claims

/-! ### How an effect ends -/

section
variable (s : State) (e : ElinkId) (b : Elink)

theorem finish_run_quiet :
    finish (packetAnswer ((ElinkEffect.mk b [] none).run e s)) = returns (bank s e b) .ok (.packet none) := by
  simp only [ElinkEffect.run, State.afterElink_nil]
  rfl

theorem finish_run_packet (p : Packet) :
    finish (packetAnswer ((ElinkEffect.mk b [p] none).run e s)) =
      .next { bank s e b with out := s.out ++ [p], result := .returned .ok (.packet (some p)) } := rfl

theorem finish_run_raised (c : FatalCode) :
    finish (packetAnswer ((ElinkEffect.mk b [] (some c)).run e s)) = raises (bank s e b) c := by
  simp only [ElinkEffect.run, State.afterElink_nil]
  rfl

end

/-- What an effect that completes returns, and where. -/
theorem ElinkEffect.run_eq_done {x : ElinkEffect} {e : ElinkId} {s u : State} {p : Option Packet}
    (h : x.run e s = .done p u) : p = x.out.head? ∧ u = s.afterElink e x.bank x.out := by
  unfold ElinkEffect.run at h
  split at h
  · exact absurd h (by simp [raise])
  · obtain ⟨rfl, rfl⟩ := Run.done.inj h
    exact ⟨rfl, rfl⟩

/-! ### `EL.PUSH` -/

theorem exec_elPush_eq_command (e : ElinkId) (v : Bool) (s : State) :
    exec (.elPush e v) s = command s fun s => packetAnswer (push e v s) := rfl

theorem exec_elPush {s : State} (hs : s.fault = none) (e : ElinkId) (v : Bool) :
    exec (.elPush e v) s = finish (packetAnswer (push e v s)) := by
  rw [exec_elPush_eq_command, command_of_unfaulted hs]

theorem exec_elPush_withResult {s : State} (hs : s.fault = none) (e : ElinkId) (v : Bool) (r : Answer) :
    exec (.elPush e v) (s.withResult r) = finish (packetAnswer (push e v s)) := by
  rw [exec_elPush (s := s.withResult r) hs, push_eq, push_eq]
  exact ElinkEffect.finish_run_withResult ..

/-- How a push ends: the fatal it raised is recorded, or the block has the fault it had before. -/
theorem push_cases (e : ElinkId) (v : Bool) (s : State) :
    (∃ c u, push e v s = .fatal c u ∧ u.fault ≠ none) ∨ ∃ p u, push e v s = .done p u ∧ u.fault = s.fault := by
  rw [push_eq, ElinkEffect.run]
  split
  · exact .inl ⟨_, _, rfl, Option.some_ne_none _⟩
  · exact .inr ⟨_, _, rfl, rfl⟩

/-- The push after one that returned a packet returns none (44_elink.md R129). -/
theorem push_none_of_push_some {e : ElinkId} {v0 v1 : Bool} {s u w : State} {p0 : Packet} {p1 : Option Packet}
    (h0 : push e v0 s = .done (some p0) u) (h1 : push e v1 u = .done p1 w) : p1 = none := by
  rw [push_eq] at h0 h1
  obtain ⟨hp0, rfl⟩ := ElinkEffect.run_eq_done h0
  obtain ⟨rfl, -⟩ := ElinkEffect.run_eq_done h1
  obtain hout | ⟨q, -, -, hlen, hcp⟩ := Elink.pushEffect_out s.config.maxCapacityBits e v0 (s.elink e)
  · simp [hout] at hp0
  · simp only [State.afterElink_elink, if_true, Elink.pushEffect_room _ _ _ hlen hcp, List.head?_nil]

/-! ### The header rows -/

/-- A header row stores its word, then runs the arm its PKT selects (44_elink.md R133). -/
theorem exec_of_decode_header {e : ElinkId} {h : Sdh} {i : Instr} (hi : decode (.header e h) = .ok i) (s : State) :
    exec i s = command s fun s => packetAnswer (headerArm e h (storeSdh e h s)) := by
  obtain rfl : decodeHeader e h = i := Except.ok.inj hi
  obtain ⟨p, f, rfl⟩ : ∃ p f, h = Sdh.pack p f := ⟨_, _, h.pack_fields.symm⟩
  unfold decodeHeader headerArm
  rw [Sdh.pkt_pack, Sdh.fields_pack]
  obtain ⟨k, hk⟩ := p
  interval_cases k <;> rfl

theorem headerArm_storeSdh_eq (e : ElinkId) (h : Sdh) (s : State) :
    headerArm e h (storeSdh e h s) = (((s.elink e).withSdh h).headerArmEffect e h).run e s := by
  rw [headerArm_eq, storeSdh, State.withElink_elink_self, ElinkEffect.run_withElink]

theorem exec_headerRow {s : State} {e : ElinkId} {h : Sdh} {i : Instr} (hs : s.fault = none)
    (hi : decode (.header e h) = .ok i) :
    exec i s = finish (packetAnswer ((((s.elink e).withSdh h).headerArmEffect e h).run e s)) := by
  rw [exec_of_decode_header hi, command_of_unfaulted hs, headerArm_storeSdh_eq]

/-- The row a word decodes to, from the row's encoding. -/
theorem decode_header_of_row {p : BitVec 3} {mk : ElinkId → SdhFields → Instr}
    (hmk : ∀ e f, encode (mk e f) = .header e (Sdh.pack p f)) {h : Sdh} (hp : Sdh.pkt h = p) (e : ElinkId) :
    decode (.header e h) = .ok (mk e (Sdh.fields h)) := by
  have hrow := decodeEncodeAgree (mk e (Sdh.fields h))
  rwa [hmk, Sdh.pack_of_pkt hp] at hrow

section
variable {h : Sdh}

theorem Elink.headerArmEffect_of_data (hp : dataPkt (Sdh.pkt h) = true) (e : ElinkId) (b : Elink) :
    b.headerArmEffect e h = b.headerDataEffect e h := by
  unfold Elink.headerArmEffect
  obtain hk | hk | hk | hk | hk := (dataPkt_iff _).1 hp <;> rw [hk] <;> rfl

theorem Elink.headerArmEffect_of_sync (hp : Sdh.pkt h = 2) (e : ElinkId) (b : Elink) :
    b.headerArmEffect e h = b.headerSyncEffect h := by
  rw [Elink.headerArmEffect, hp]
  rfl

theorem Elink.headerArmEffect_of_reset (hp : Sdh.pkt h = 0 ∨ Sdh.pkt h = 5) (e : ElinkId) (b : Elink) :
    b.headerArmEffect e h = ⟨b.rearm 50, [], none⟩ := by
  unfold Elink.headerArmEffect
  obtain hk | hk := hp <;> rw [hk] <;> rfl

end

theorem exec_huntMatch_eq_command (e : ElinkId) (s : State) :
    exec (.sdhSyncPatternHuntMatch e) s = command s fun s => packetAnswer (huntMatch e s) := rfl

theorem huntMatch_eq_run (e : ElinkId) (s : State) :
    huntMatch e s = (ElinkEffect.mk (acquired (s.elink e)) [] none).run e s := by
  rw [huntMatch_eq, ElinkEffect.run, State.afterElink_nil]
  rfl

/-! ### `EL.FORCECLEAR`, `EL.ISEMPTY`, `EL.READ` -/

theorem exec_elForceclear_eq_command (e : ElinkId) (s : State) :
    exec (.elForceclear e) s = command s fun s => .done (ok .nothing) (forceClear e s) := rfl

theorem forceClear_eq_bank (e : ElinkId) (s : State) : forceClear e s = bank s e (forceCleared (s.elink e)) := rfl

theorem exec_elIsempty_eq_command (e : ElinkId) (s : State) :
    exec (.elIsempty e) s = command s fun s => .done (ok (.bit ((s.elink e).bits.len == 0))) s := rfl

theorem exec_elRead_eq_command (e : ElinkId) (s : State) :
    exec (.elRead e) s = command s fun s => .done (ok (s.elink e).readOut) s := rfl

/-! ### Every instruction that feeds or clears an elink -/

/-- What feeds or clears elink `e` is a command that runs an effect of that bank and the parameters alone (44_elink.md R146). -/
theorem exec_of_feeds {e : ElinkId} {i : Instr} (hi : Feeds e i) :
    ∃ (x : Config → Elink → ElinkEffect) (g : Option Packet → Answer),
      ∀ s, exec i s = command s fun s => ((x s.config (s.elink e)).run e s).map g := by
  obtain ⟨v, rfl⟩ | ⟨v0, v1, rfl⟩ | rfl | ⟨h, hh⟩ | rfl := hi
  · exact ⟨fun cfg b => b.pushEffect cfg.maxCapacityBits e v, fun p => ok (.packet p), fun s => by
      simp only [exec_elPush_eq_command, push_eq, packetAnswer]⟩
  · exact ⟨fun cfg b => b.appendEffect cfg.maxCapacityBits e v0 v1, fun p => ok (.packet p), fun s => by
      simp only [exec_elAppend_eq_command, append_eq, packetAnswer]⟩
  · exact ⟨fun _ b => ⟨forceCleared b, [], none⟩, fun _ => ok .nothing, fun s => by
      simp only [exec_elForceclear_eq_command, forceClear_eq_bank, ElinkEffect.run, State.afterElink_nil, Run.map_done]
      rfl⟩
  · exact ⟨fun _ b => (b.withSdh h).headerArmEffect e h, fun p => ok (.packet p), fun s => by
      simp only [exec_of_decode_header hh, headerArm_storeSdh_eq, packetAnswer]⟩
  · exact ⟨fun _ b => ⟨acquired b, [], none⟩, fun p => ok (.packet p), fun s => by
      simp only [exec_huntMatch_eq_command, huntMatch_eq_run, packetAnswer]⟩

/-- The bank `b`, the parameters and the fault fix all that an instruction feeding elink `e` does: the bank it leaves, the packets
it appends, the fault and the answer (44_elink.md R146). -/
theorem exec_of_feeds_local {e : ElinkId} {i : Instr} (hi : Feeds e i) (b : Elink) (cfg : Config) (fault : Option FatalCode) :
    ∃ b' ps fault' r, ∀ s : State, s.elink e = b → s.config = cfg → s.fault = fault →
      exec i s = .next { s.afterElink e b' ps with fault := fault', result := r } := by
  obtain ⟨x, g, hx⟩ := exec_of_feeds hi
  cases fault with
  | some c =>
    refine ⟨b, [], some c, .returned .refused .nothing, fun s hb _ hf => ?_⟩
    rw [hx, command_of_faulted hf, ← hb, State.afterElink_nil, State.withElink_self, ← hf]
    rfl
  | none =>
    have hrun (s : State) (hb : s.elink e = b) (hcfg : s.config = cfg) (hf : s.fault = none) :
        exec i s = finish (((x cfg b).run e s).map g) := by
      rw [hx, command_of_unfaulted hf, hb, hcfg]
    cases hc : (x cfg b).fatal with
    | some c =>
      refine ⟨(x cfg b).bank, (x cfg b).out, some c, .fatal c, fun s hb hcfg hf => ?_⟩
      rw [hrun s hb hcfg hf, ElinkEffect.run, hc]
      rfl
    | none =>
      refine ⟨(x cfg b).bank, (x cfg b).out, none, g (x cfg b).out.head?, fun s hb hcfg hf => ?_⟩
      rw [hrun s hb hcfg hf, ElinkEffect.run, hc]
      simp only [Run.map_done, finish_done, State.withResult, State.afterElink_fault, hf]

end Sys2Proof.Machine
end

section
/-! A bit stored in an elink's container, short of the checkpoint and at it (44_elink.md R127, R130): the bank `Fed` names is the one
the push leaves, and the state of its flags selects what is done with it. -/

namespace Sys2Proof.Machine

open Sys2Proof.Claims

/-! ### The bank that holds the bit -/

/-- Exactly one container holds given bits (10_state.md R40). -/
theorem holds_unique {c d : Container} {len cap : Nat} {bits : Nat → Bool} (hc : Holds c len cap bits)
    (hd : Holds d len cap bits) : c = d := by
  obtain ⟨hcw, hclen, hccap, hcbits⟩ := hc
  obtain ⟨hdw, hdlen, hdcap, hdbits⟩ := hd
  have hones : c.ones = d.ones := hcw.ones_eq hdw fun n => (hcbits n).trans (hdbits n).symm
  cases c
  cases d
  exact Container.mk.injEq .. ▸ ⟨hclen.trans hdlen.symm, hccap.trans hdcap.symm, hones⟩

section
variable {b b' : Elink} {v : Bool} {k : Nat}

/-- The bank with the bit `v` stored in its container grown by `k` doublings. -/
def Elink.storeGrown (b : Elink) (v : Bool) (k : Nat) : Elink := b.store { b.bits with cap := 2 ^ k * b.bits.cap } v

theorem fed_storeGrown (hw : b.bits.WF) (hk : Doublings b.bits.cap (b.bits.len + 1) k) (v : Bool) :
    Fed b v k (b.storeGrown v k) := by
  have hgrown : Container.WF { b.bits with cap := 2 ^ k * b.bits.cap } :=
    hw.withCap (Nat.le_mul_of_pos_left _ (Nat.two_pow_pos k))
  have hset := holds_set hgrown (i := b.bits.len) v hk.2
  rw [max_eq_right (Nat.le_succ _)] at hset
  exact ⟨_, hset, rfl⟩

theorem eq_storeGrown_of_fed (hw : b.bits.WF) (hk : Doublings b.bits.cap (b.bits.len + 1) k) (hb : Fed b v k b') :
    b' = b.storeGrown v k := by
  obtain ⟨c, hc, rfl⟩ := hb
  obtain ⟨d, hd, hgrown⟩ := fed_storeGrown hw hk v
  rw [hgrown, holds_unique hc hd]

theorem len_of_fed (hb : Fed b v k b') : b'.bits.len = b.bits.len + 1 := by
  obtain ⟨c, ⟨-, hlen, -⟩, rfl⟩ := hb
  exact hlen

/-- Storing a bit leaves the checkpoint, the flags and the header as they were. -/
theorem frame_of_fed (hb : Fed b v k b') :
    b'.checkpoint = b.checkpoint ∧ b'.indata = b.indata ∧ b'.nsync = b.nsync ∧ b'.sdh = b.sdh := by
  obtain ⟨c, -, rfl⟩ := hb
  exact ⟨rfl, rfl, rfl, rfl⟩

end

/-! ### `EL.PUSH`, by where the bit falls -/

section
variable {s : State} {e : ElinkId} {v : Bool} {k : Nat} {b' : Elink}

/-- The growth for the bit is refused (40_bit_container.md R84). -/
theorem exec_elPush_of_not_mayGrow (hs : s.fault = none) (hk : Doublings (s.elink e).bits.cap ((s.elink e).bits.len + 1) k)
    (hgrow : ¬ MayGrow s (s.elink e).bits.cap k) (v : Bool) : exec (.elPush e v) s = raises s .containerCapacity := by
  rw [exec_elPush hs, push, Container.grow_of_doublings _ hk, if_neg hgrow]
  rfl

/-- A push that stores its bit: short of the checkpoint it ends there, at the checkpoint it goes on to `process`. -/
theorem exec_elPush_of_fed (hs : s.fault = none) (hw : (s.elink e).bits.WF) (hk : CanTake s e k)
    (hb : Fed (s.elink e) v k b') :
    exec (.elPush e v) s = finish (packetAnswer
      ((if (s.elink e).bits.len + 1 = (s.elink e).checkpoint then b'.processEffect e else ⟨b', [], none⟩).run e s)) := by
  obtain ⟨hdbl, hgrow⟩ := hk
  obtain rfl := eq_storeGrown_of_fed hw hdbl hb
  rw [exec_elPush hs, push_eq, Elink.pushEffect, Container.grow_of_doublings _ hdbl, if_pos hgrow]
  simp only [Elink.store_len]
  rfl

theorem exec_elPush_short (hs : s.fault = none) (hw : (s.elink e).bits.WF) (hk : CanTake s e k) (hb : Fed (s.elink e) v k b')
    (hne : (s.elink e).bits.len + 1 ≠ (s.elink e).checkpoint) :
    exec (.elPush e v) s = returns (bank s e b') .ok (.packet none) := by
  rw [exec_elPush_of_fed hs hw hk hb, if_neg hne, finish_run_quiet]

theorem exec_elPush_due (hs : s.fault = none) (hw : (s.elink e).bits.WF) (hk : CanTake s e k) (hb : Fed (s.elink e) v k b')
    (heq : (s.elink e).bits.len + 1 = (s.elink e).checkpoint) :
    exec (.elPush e v) s = finish (packetAnswer ((b'.processEffect e).run e s)) := by
  rw [exec_elPush_of_fed hs hw hk hb, if_pos heq]

end

/-! ### `process`, by the flags -/

section
variable {b : Elink} (hlen : b.bits.len = b.checkpoint)
include hlen

theorem Elink.processEffect_of_inconsistent (hd : b.indata = true) (hn : b.nsync = 0) (e : ElinkId) :
    b.processEffect e = ⟨b, [], some .elinkStateInconsistent⟩ := by
  rw [Elink.processEffect, if_neg (not_not_intro hlen), if_pos ⟨hd, hn⟩]

theorem Elink.processEffect_of_hunt (hd : b.indata = false) (hn : b.nsync = 0) (e : ElinkId) :
    b.processEffect e = b.huntEffect := by
  rw [Elink.processEffect, if_neg (not_not_intro hlen), if_neg (by simp [hd]), b.state_eq_hunt.2 ⟨hd, hn⟩]

theorem Elink.processEffect_of_header (hd : b.indata = false) (hn : 1 ≤ b.nsync) (e : ElinkId) :
    b.processEffect e = b.headerEffect e := by
  rw [Elink.processEffect, if_neg (not_not_intro hlen), if_neg (by simp [hd]), b.state_eq_header.2 ⟨hd, by omega⟩]

theorem Elink.processEffect_of_data (hd : b.indata = true) (hn : 1 ≤ b.nsync) (e : ElinkId) :
    b.processEffect e = b.dataEffect e := by
  rw [Elink.processEffect, if_neg (not_not_intro hlen), if_neg (by omega), b.state_eq_data.2 hd]

end

/-- The newest 50 bits are the header whose bit `n` is bit `n` of that window (30_encoding.md R71). -/
theorem Container.last50_eq_iff {c : Container} {h : Sdh} :
    c.last50 = h ↔ ∀ n < 50, c.bit (c.len - 50 + n) = h.getLsbD n := by
  constructor
  · rintro rfl n hn
    rw [Container.getLsbD_last50, decide_eq_true hn, Bool.true_and]
  · intro hbits
    refine BitVec.eq_of_getLsbD_eq fun n hn => ?_
    rw [Container.getLsbD_last50, decide_eq_true hn, Bool.true_and, hbits n hn]

end Sys2Proof.Machine
end

section
/-! The payload words and the clusters they spell (44_elink.md R140, R141): the decoder's loop finds the clusters exactly where the
words spell them, and raises exactly where a count runs past the end. -/

namespace Sys2Proof.Machine

open Sys2Proof.Claims

/-! ### The words of a container -/

theorem eq_split10_of_splits {c : Container} {ws : List Word10} (h : Splits c ws) : ws = c.split10 := by
  obtain ⟨hlen, hbits⟩ := h
  refine List.ext_getElem (by rw [hlen, Container.split10_length]) fun k hk _ => ?_
  refine BitVec.eq_of_getLsbD_eq fun j hj => ?_
  have hbit := hbits k (by omega) j hj
  rw [List.getD_eq_getElem _ _ hk] at hbit
  simp only [Container.split10, List.getElem_map, List.getElem_range, Container.getLsbD_slice _ _ _ _ _ le_rfl, hj,
    decide_true, Bool.true_and, hbit]

/-! ### The clusters of a list of words -/

theorem clusterWords_cons (c : Cluster) (cs : List Cluster) :
    clusterWords (c :: cs) = BitVec.ofNat 10 c.samples.length :: c.ts :: (c.samples ++ clusterWords cs) := rfl

theorem length_le_length_clusterWords (cs : List Cluster) : cs.length ≤ (clusterWords cs).length := by
  induction cs with
  | nil => exact le_rfl
  | cons c cs ih =>
    simp only [clusterWords_cons, List.length_cons, List.length_append]
    omega

section
variable {n ts : Word10} {rest : List Word10}

theorem samples_length_lt (hn : n.toNat ≤ rest.length) : (rest.take n.toNat).length < 1024 := by
  rw [List.length_take_of_le hn]
  exact n.isLt

/-- The words of the cluster that a count, a timestamp and the words after them begin with (30_encoding.md R74). -/
theorem words_eq_cluster_append {cs : List Cluster} {tail : List Word10} (hn : n.toNat ≤ rest.length)
    (hrest : rest.drop n.toNat = clusterWords cs ++ tail) :
    n :: ts :: rest = clusterWords (⟨ts, rest.take n.toNat⟩ :: cs) ++ tail := by
  rw [clusterWords_cons, List.length_take_of_le hn, BitVec.ofNat_toNat, BitVec.setWidth_eq, List.cons_append, List.cons_append,
    List.append_assoc, ← hrest, List.take_append_drop]

/-- A whole cluster in front of words that spell clusters. -/
theorem spells_cons {cs : List Cluster} (hn : n.toNat ≤ rest.length) (h : Spells (rest.drop n.toNat) cs) :
    Spells (n :: ts :: rest) (⟨ts, rest.take n.toNat⟩ :: cs) := by
  obtain ⟨hcs, tail, hrest, htail⟩ := h
  exact ⟨List.forall_mem_cons.2 ⟨samples_length_lt hn, hcs⟩, tail, words_eq_cluster_append hn hrest, htail⟩

/-- A whole cluster in front of words that overrun. -/
theorem overruns_cons (hn : n.toNat ≤ rest.length) (h : Overruns (rest.drop n.toNat)) : Overruns (n :: ts :: rest) := by
  obtain ⟨cs, n', ts', tail, hcs, hrest, htail⟩ := h
  exact ⟨⟨ts, rest.take n.toNat⟩ :: cs, n', ts', tail, List.forall_mem_cons.2 ⟨samples_length_lt hn, hcs⟩,
    words_eq_cluster_append hn hrest, htail⟩

end

/-- Words spell clusters or overrun: the first cluster fits or its count runs past the end, and so on with the words after it. -/
theorem spells_or_overruns : ∀ ws : List Word10, (∃ cs, Spells ws cs) ∨ Overruns ws
  | [] => .inl ⟨[], by simp, [], rfl, by simp⟩
  | [n] => .inl ⟨[], by simp, [n], rfl, by simp⟩
  | n :: ts :: rest => by
    by_cases hn : n.toNat ≤ rest.length
    · exact (spells_or_overruns (rest.drop n.toNat)).imp (fun ⟨_, h⟩ => ⟨_, spells_cons hn h⟩) (overruns_cons hn)
    · exact .inr ⟨[], n, ts, rest, by simp, rfl, by omega⟩
  termination_by ws => ws.length

/-! ### The loop of `decode_clusters` -/

theorem clustersOf_of_length_le_one {rest : List Word10} (h : rest.length ≤ 1) (fuel : Nat) :
    clustersOf fuel rest = some [] := by
  obtain _ | ⟨n, _ | ⟨ts, rest⟩⟩ := rest
  · cases fuel <;> rfl
  · cases fuel <;> rfl
  · simp at h

/-- The loop takes the clusters that stand in front, one turn each, and goes on with the rest. -/
theorem clustersOf_clusterWords_append {cs : List Cluster} (hcs : ∀ c ∈ cs, c.samples.length < 1024) (fuel : Nat)
    (rest : List Word10) :
    clustersOf (fuel + cs.length) (clusterWords cs ++ rest) = (clustersOf fuel rest).map (cs ++ ·) := by
  induction cs with
  | nil => simp [clusterWords]
  | cons c cs ih =>
    obtain ⟨hc, hcs⟩ := List.forall_mem_cons.1 hcs
    have hcount : (BitVec.ofNat 10 c.samples.length).toNat = c.samples.length := Nat.mod_eq_of_lt hc
    rw [clusterWords_cons, List.length_cons, ← Nat.add_assoc, List.cons_append, List.cons_append, clustersOf, hcount,
      if_neg (by simp), List.append_assoc, List.drop_left, List.take_left, ih hcs, Option.map_map]
    rfl

theorem decodeClusters_of_spells {ws : List Word10} {cs : List Cluster} (h : Spells ws cs) : decodeClusters ws = some cs := by
  obtain ⟨hcs, rest, rfl, hrest⟩ := h
  have hlen := length_le_length_clusterWords cs
  obtain ⟨fuel, hfuel⟩ : ∃ fuel, (clusterWords cs ++ rest).length = fuel + cs.length :=
    ⟨_, (Nat.sub_add_cancel (by rw [List.length_append]; omega)).symm⟩
  rw [decodeClusters, hfuel, clustersOf_clusterWords_append hcs, clustersOf_of_length_le_one hrest]
  simp

theorem decodeClusters_of_overruns {ws : List Word10} (h : Overruns ws) : decodeClusters ws = none := by
  obtain ⟨cs, n, ts, rest, hcs, rfl, hlt⟩ := h
  have hlen := length_le_length_clusterWords cs
  obtain ⟨fuel, hfuel⟩ : ∃ fuel, (clusterWords cs ++ n :: ts :: rest).length = fuel + 1 + cs.length :=
    ⟨(clusterWords cs).length + rest.length + 1 - cs.length, by simp only [List.length_append, List.length_cons]; omega⟩
  rw [decodeClusters, hfuel, clustersOf_clusterWords_append hcs, clustersOf, if_pos hlt]
  rfl

/-! ### The end of a payload -/

section
variable {b : Elink} {ws : List Word10} (hws : Splits b.bits ws)
include hws

theorem Elink.dataEffect_of_spells {cs : List Cluster} (h : Spells ws cs) (e : ElinkId) :
    b.dataEffect e = ⟨b.leaveData, [⟨b.sdh, e, cs⟩], none⟩ := by
  rw [Elink.dataEffect, ← eq_split10_of_splits hws, decodeClusters_of_spells h]

theorem Elink.dataEffect_of_overruns (h : Overruns ws) (e : ElinkId) : b.dataEffect e = ⟨b, [], some .payloadOverrun⟩ := by
  rw [Elink.dataEffect, ← eq_split10_of_splits hws, decodeClusters_of_overruns h]

end

end Sys2Proof.Machine
end

section
/-! The statements of 44_elink.md: the commands that feed, clear and read an elink, and what it does in HUNT, HEADER and DATA. -/

namespace Sys2Proof.Machine

open Sys2Proof.Claims

/-! ### Feeding bits -/

/-- Settles O45: the bank `Fed` names is the one a push leaves, and with room a pair is two such bits. -/
theorem elPushStoresBit : Obligations.ElPushStoresBit := by
  intro s e v v1 k hs hw hk
  refine ⟨rfl, rfl, fun hgrow => exec_elPush_of_not_mayGrow hs hk hgrow v, fun hgrow => ?_, fun hroom => ?_⟩
  · have hb := fed_storeGrown hw hk v
    have ⟨hcp, hd, hn, _⟩ := frame_of_fed hb
    refine ⟨_, hb, exec_elPush_short hs hw ⟨hk, hgrow⟩ hb, fun heq hdata hsync => ?_⟩
    rw [exec_elPush_due hs hw ⟨hk, hgrow⟩ hb heq,
      Elink.processEffect_of_inconsistent (by rw [len_of_fed hb, hcp, heq]) (hd.trans hdata) (hn.trans hsync),
      finish_run_raised]
  · have ⟨_, _, hcap⟩ := hroom
    exact ⟨_, fedPair_storePair v v1 hw hcap, exec_elAppend_of_room hs hroom v v1⟩

/-- Settles O46: the append is the two pushes run one after the other, by how each of them ends. -/
theorem elAppendIsTwoPushes : Obligations.ElAppendIsTwoPushes := by
  intro s t e v0 v1 hs ht
  rw [exec_elPush hs] at ht
  rw [exec_elAppend hs, append]
  obtain ⟨c, u, h0, hu⟩ | ⟨p0, u, h0, hu⟩ := push_cases e v0 s
  · rw [h0] at ht ⊢
    obtain rfl := Host.Outcome.next.inj ht
    exact ⟨fun _ => rfl, fun hf => absurd hf hu⟩
  · have hu : u.fault = none := hu.trans hs
    rw [h0] at ht ⊢
    obtain rfl := Host.Outcome.next.inj ht
    refine ⟨fun hf => absurd hu hf, fun _ => ?_⟩
    rw [exec_elPush_withResult hu, Run.bind_done]
    obtain ⟨c, w, h1, hw⟩ | ⟨p1, w, h1, hw⟩ := push_cases e v1 u
    · rw [h1]
      exact ⟨_, rfl, fun _ => rfl, fun hf => absurd hf hw⟩
    · have hw : w.fault = none := hw.trans hu
      rw [h1]
      refine ⟨_, rfl, fun hf => absurd hw hf, fun _ => ⟨p0, p1, rfl, rfl, ?_, ?_⟩⟩
      · cases p0 with
        | none => exact .inl rfl
        | some p => exact .inr (push_none_of_push_some h0 h1)
      · cases p0 <;> rfl

/-! ### HUNT, HEADER, DATA -/

/-- Settles O47: the 50-bit window of the container is the number that `hunt` compares. -/
theorem huntSlidesOrAcquires : Obligations.HuntSlidesOrAcquires := by
  intro s e hs
  refine ⟨?_, fun v k b' hw hd hn heq hcp hk hb => ?_⟩
  · rw [exec_huntMatch_eq_command, command_of_unfaulted hs, huntMatch_eq_run, finish_run_quiet]
  · obtain ⟨hcp', hd', hn', -⟩ := frame_of_fed hb
    have hlen : b'.bits.len = (s.elink e).checkpoint := (len_of_fed hb).trans heq
    rw [exec_elPush_due hs hw hk hb heq,
      Elink.processEffect_of_hunt (hlen.trans hcp'.symm) (hd'.trans hd) (hn'.trans hn), Elink.huntEffect, ← hlen,
      ← Container.last50_eq_iff]
    refine ⟨fun hmatch => ?_, fun hmiss => ?_⟩
    · rw [if_pos hmatch, finish_run_quiet]
      rfl
    · rw [if_neg hmiss, finish_run_quiet, hlen, ← hcp']
      rfl

/-- Settles O48: `header` and the row both run the arm of the word that the container holds. -/
theorem headerBitRunsItsRow : Obligations.HeaderBitRunsItsRow := by
  intro s e v k b' h hs hw hd hn hlen hcp hk hb hbits
  obtain ⟨hcp', hd', hn', -⟩ := frame_of_fed hb
  have hlen' : b'.bits.len = 50 := (len_of_fed hb).trans (by rw [hlen])
  have hlast : b'.bits.last50 = h := Container.last50_eq_iff.2 fun n hn => by
    rw [hlen', hbits n hn, Nat.sub_self, Nat.zero_add]
  have hrow := everyPktNamesARow e h
  refine ⟨hrow, ?_⟩
  have hexec := exec_headerRow (s := s.withElink e b') hs hrow
  rw [State.withElink_elink_self, ElinkEffect.run_withElink] at hexec
  calc exec (.elPush e v) s
      = finish (packetAnswer (((b'.withSdh h).headerArmEffect e h).run e s)) := by
        rw [exec_elPush_due hs hw hk hb (by omega),
          Elink.processEffect_of_header (by omega) (hd'.trans hd) (by omega), Elink.headerEffect, hlast]
    _ = exec (rowOf e h) (bank s e b') := hexec.symm

/-- Settles O52: the loop decodes exactly the clusters the words spell, and the words spell clusters or overrun. -/
theorem dataBitCompletesPacket : Obligations.DataBitCompletesPacket := by
  intro s e v k b' ws hs hw hd hn heq hk hb hws
  obtain ⟨hcp, hd', hn', hsdh⟩ := frame_of_fed hb
  have hexec : exec (.elPush e v) s = finish (packetAnswer ((b'.dataEffect e).run e s)) := by
    rw [exec_elPush_due hs hw hk hb heq,
      Elink.processEffect_of_data (by rw [len_of_fed hb, hcp, heq]) (hd'.trans hd) (by omega)]
  rw [hexec, ← hsdh]
  refine ⟨spells_or_overruns ws, fun cs hcs => ?_, fun hov => ?_⟩
  · rw [Elink.dataEffect_of_spells hws hcs]
    exact finish_run_packet ..
  · rw [Elink.dataEffect_of_overruns hws hov, finish_run_raised]

/-! ### Elinks share no state -/

/-- Settles O55: the bank, the parameters and the fault fix what is done, and it is done to that bank, the queue, the fault and the
answer alone. -/
theorem elinksShareNothing : Obligations.ElinksShareNothing := by
  refine ⟨fun s t e i hi ht => ?_, fun s s' t t' e i hi ht ht' hb hcfg hf => ?_⟩
  · obtain ⟨b', ps, fault', r, hloc⟩ := exec_of_feeds_local hi (s.elink e) s.config s.fault
    obtain rfl := Host.Outcome.next.inj ((hloc s rfl rfl rfl).symm.trans ht)
    exact ⟨rfl, fun e' he => State.withElink_elink_of_ne s b' he⟩
  · obtain ⟨b', ps, fault', r, hloc⟩ := exec_of_feeds_local hi (s.elink e) s.config s.fault
    obtain rfl := Host.Outcome.next.inj ((hloc s rfl rfl rfl).symm.trans ht)
    obtain rfl := Host.Outcome.next.inj ((hloc s' hb.symm hcfg.symm hf.symm).symm.trans ht')
    exact ⟨(s.withElink_elink_self e b').trans (s'.withElink_elink_self e b').symm, rfl, rfl, ps, rfl, rfl⟩

/-! ### The header rows -/

/-- The rule of the data rows, for a row of a data PKT (44_elink.md R134). -/
theorem dataRowRule_of_row {p : BitVec 3} {mk : ElinkId → SdhFields → Instr} (hp : dataPkt p = true)
    (hmk : ∀ e f, encode (mk e f) = .header e (Sdh.pack p f)) : DataRowRule p mk := by
  intro s e h nw hs hpkt hnw
  have hrow := decode_header_of_row hmk hpkt e
  rw [exec_headerRow hs hrow, Elink.headerArmEffect_of_data (by rwa [hpkt]), Elink.headerDataEffect, ← hnw]
  refine ⟨hrow, fun hzero => ?_, fun hpos => ?_⟩
  · rw [if_pos hzero]
    exact finish_run_packet ..
  · rw [if_neg (by omega)]
    exact finish_run_quiet ..

/-- The rule of the rows that only rearm (44_elink.md R136, R137). -/
theorem resetRowRule_of_row {p : BitVec 3} {mk : ElinkId → SdhFields → Instr} (hp : p = 0 ∨ p = 5)
    (hmk : ∀ e f, encode (mk e f) = .header e (Sdh.pack p f)) : ResetRowRule p mk := by
  intro s e h hs hpkt
  have hrow := decode_header_of_row hmk hpkt e
  rw [exec_headerRow hs hrow, Elink.headerArmEffect_of_reset (by rwa [hpkt])]
  exact ⟨hrow, finish_run_quiet ..⟩

/-- Settles O49: the five rows are those of a data PKT. -/
theorem dataHeadersEnterData : Obligations.DataHeadersEnterData :=
  ⟨dataRowRule_of_row rfl fun _ _ => rfl, dataRowRule_of_row rfl fun _ _ => rfl, dataRowRule_of_row rfl fun _ _ => rfl,
    dataRowRule_of_row rfl fun _ _ => rfl, dataRowRule_of_row rfl fun _ _ => rfl⟩

/-- Settles O50: the arm of PKT 2 compares the word with the pattern after storing it. -/
theorem syncHeaderCountsOrFaults : Obligations.SyncHeaderCountsOrFaults := by
  intro s e h hs hpkt
  have hrow := decode_header_of_row (mk := .sdhSync) (fun _ _ => rfl) hpkt e
  rw [exec_headerRow hs hrow, Elink.headerArmEffect_of_sync hpkt, Elink.headerSyncEffect]
  refine ⟨hrow, fun heq => ?_, fun hne => ?_⟩
  · rw [if_neg (not_not_intro heq)]
    exact finish_run_quiet ..
  · rw [if_pos hne]
    exact finish_run_raised ..

/-- Settles O51: the heartbeat row and the DataNumWords row are the two that only rearm. -/
theorem resetHeadersRearm : Obligations.ResetHeadersRearm :=
  ⟨resetRowRule_of_row (.inl rfl) fun _ _ => rfl, resetRowRule_of_row (.inr rfl) fun _ _ => rfl⟩

/-! ### Clearing and reading -/

/-- Settles O53: the command's body is the one bank write of `force_clear`. -/
theorem forceclearReturnsToHunt : Obligations.ForceclearReturnsToHunt := by
  intro s e hs
  refine ⟨rfl, ?_⟩
  rw [exec_elForceclear_eq_command, command_of_unfaulted hs, finish_ok, forceClear_eq_bank]

/-- Settles O54: the code that is read is that of the state the flags name. -/
theorem elReadsBank : Obligations.ElReadsBank := by
  intro s e hs
  refine ⟨rfl, rfl, ?_, (s.elink e).state.code, ?_, fun hd hn => ?_, fun hd hn => ?_, fun hd => ?_⟩
  · rw [exec_elIsempty_eq_command, command_of_unfaulted hs, finish_ok, beq_eq_decide]
  · rw [exec_elRead_eq_command, command_of_unfaulted hs, finish_ok, Elink.readOut]
  · rw [(Elink.state_eq_hunt _).2 ⟨hd, hn⟩]
    rfl
  · rw [(Elink.state_eq_header _).2 ⟨hd, by omega⟩]
    rfl
  · rw [(Elink.state_eq_data _).2 hd]
    rfl

end Sys2Proof.Machine
end

section
/-! How the parts of `PL.STEP` (45_pipeline.md R147) end: a fatal that stops one is recorded in the block, else the fault is as it was;
and the bytes that each part consumes, which bound the length of a run (R149). -/

namespace Sys2Proof.Machine

open Sys2Proof.Claims

/-! ### A part that records its fatal -/

/-- A part of a command started with the fault `f` recorded: the fatal that stops it is recorded (60_exceptions.md R160), or it comes
to a value `a` in a state `u` that has the fault `f` still, and `Q a u` holds. -/
def Run.Yields {α : Type} (f : Option FatalCode) (Q : α → State → Prop) (x : Run α) : Prop :=
  match x with
  | .done a u => u.fault = f ∧ Q a u
  | .fatal _ u => u.fault ≠ none

section
variable {α β : Type} {f : Option FatalCode} {Q : α → State → Prop} {R : β → State → Prop} {x : Run α}

theorem Run.yields_raise (c : FatalCode) (s : State) : (raise c s : Run α).Yields f Q := Option.some_ne_none c

theorem Run.Yields.mono {Q' : α → State → Prop} (hx : x.Yields f Q) (h : ∀ a u, Q a u → Q' a u) : x.Yields f Q' := by
  cases x with
  | done a u => exact ⟨hx.1, h a u hx.2⟩
  | fatal c u => exact hx

theorem Run.Yields.bind {k : α → State → Run β} (hx : x.Yields f Q) (hk : ∀ a u, Q a u → (k a u).Yields u.fault R) :
    (x.bind k).Yields f R := by
  cases x with
  | done a u =>
    obtain ⟨rfl, hq⟩ := hx
    exact hk a u hq
  | fatal c u => exact hx

theorem Run.yields_map {g : α → β} : (x.map g).Yields f R ↔ x.Yields f fun a u => R (g a) u := by cases x <;> rfl

end

/-! ### A bound on the length of a run -/

/-- A bound on the `PL.STEP`s that can come before the one that ends the run: a step that reads a frame consumes its bytes, one that
takes a window moves on by 16 bytes of the payload, and one that ends an event leaves its phase. -/
def State.stepsLeft (s : State) : Nat :=
  match s.rdPhase with
  | .needEvent => (ahead s).length
  | .loaded => (ahead s).length + s.size + 1
  | .inEvent => (ahead s).length + (s.size - s.gbtPos) + 1

section
variable {s : State}

theorem State.stepsLeft_of_needEvent (hp : s.rdPhase = .needEvent) : s.stepsLeft = (ahead s).length := by
  simp [State.stepsLeft, hp]

theorem State.stepsLeft_of_loaded (hp : s.rdPhase = .loaded) : s.stepsLeft = (ahead s).length + s.size + 1 := by
  simp [State.stepsLeft, hp]

theorem State.stepsLeft_of_inEvent (hp : s.rdPhase = .inEvent) :
    s.stepsLeft = (ahead s).length + (s.size - s.gbtPos) + 1 := by
  simp [State.stepsLeft, hp]

theorem State.stepsLeft_le (s : State) : s.stepsLeft ≤ (ahead s).length + s.size + 1 := by
  unfold State.stepsLeft
  split <;> omega

/-- An event that ends leaves only the bytes ahead. -/
theorem State.stepsLeft_endEvent_lt (hp : s.rdPhase ≠ .needEvent) : (s.withPhase .needEvent).stepsLeft < s.stepsLeft := by
  have hend : (s.withPhase .needEvent).stepsLeft = (ahead s).length := State.stepsLeft_of_needEvent rfl
  cases hs : s.rdPhase with
  | needEvent => exact absurd hs hp
  | loaded =>
    rw [hend, State.stepsLeft_of_loaded hs]
    omega
  | inEvent =>
    rw [hend, State.stepsLeft_of_inEvent hs]
    omega

/-- An event has as many steps left from its first window as from its SOP check at most. -/
theorem State.stepsLeft_enterEvent_le (hp : s.rdPhase = .loaded) :
    ((s.withGbtPos 44).withPhase .inEvent).stepsLeft ≤ s.stepsLeft := by
  have hwalk : ((s.withGbtPos 44).withPhase .inEvent).stepsLeft = (ahead s).length + (s.size - 44) + 1 :=
    State.stepsLeft_of_inEvent rfl
  rw [hwalk, State.stepsLeft_of_loaded hp]
  omega

/-- A window taken leaves at least one step less. -/
theorem State.stepsLeft_nextWindow_lt (hp : s.rdPhase = .inEvent) (hw : s.gbtPos + 48 ≤ s.size) :
    (s.withGbtPos (s.gbtPos + 16)).countGbt.stepsLeft < s.stepsLeft := by
  have hnext : (s.withGbtPos (s.gbtPos + 16)).countGbt.stepsLeft = (ahead s).length + (s.size - (s.gbtPos + 16)) + 1 :=
    State.stepsLeft_of_inEvent hp
  rw [hnext, State.stepsLeft_of_inEvent hp]
  omega

theorem State.stepsLeft_afterElink (s : State) (e : ElinkId) (b : Elink) (ps : List Packet) :
    (s.afterElink e b ps).stepsLeft = s.stepsLeft := rfl

theorem State.stepsLeft_elinks (s : State) (bs : Vector Elink 40) : { s with elinks := bs }.stepsLeft = s.stepsLeft := rfl

theorem State.stepsLeft_clearAll (s : State) : (clearAll s).stepsLeft = s.stepsLeft := by
  rw [clearAll_eq, State.stepsLeft_elinks]

end

/-! ### The reader -/

/-- An event that was read is loaded, and its payload with `k` bytes more was among the `n` bytes ahead (41_frame_reader.md R105). -/
def EventReply.TakenFrom (k n : Nat) : EventReply → State → Prop
  | .eof, _ => True
  | .event _ _ _, u => u.rdPhase = .loaded ∧ (ahead u).length + u.size + k ≤ n

theorem EventReply.TakenFrom.mono {k m n : Nat} (hmn : m + k ≤ n) {r : EventReply} {u : State} (h : r.TakenFrom 0 m u) :
    r.TakenFrom k n u := by
  cases r with
  | eof => trivial
  | event =>
    obtain ⟨hl, htaken⟩ := h
    exact ⟨hl, by omega⟩

@[simp] theorem ahead_withPayload (s : State) (m : Memory) : ahead (s.withPayload m) = ahead s := rfl
@[simp] theorem ahead_withSize (s : State) (n : Nat) : ahead (s.withSize n) = ahead s := rfl
@[simp] theorem ahead_acceptEvent (s : State) : ahead s.acceptEvent = ahead s := rfl

/-- A read takes its bytes off the bytes ahead (20_memory.md R49). -/
theorem length_ahead_streamRead (n : Nat) (s : State) :
    (ahead (streamRead n s).2).length + (streamRead n s).1.length = (ahead s).length := by
  rw [streamRead_state, streamRead_length, length_ahead, length_ahead]
  simp only [State.withInPos_src, State.withInPos_inPos]
  omega

theorem readPayload_yields (hb : List Byte) (L : Nat) (s : State) :
    (readPayload hb L s).Yields s.fault (EventReply.TakenFrom 0 (ahead s).length) := by
  unfold readPayload
  split
  · exact Run.yields_raise _ _
  · dsimp only
    split
    · exact Run.yields_raise _ _
    · next hlen =>
      split
      · exact Run.yields_raise _ _
      · have hread := length_ahead_streamRead L s
        refine ⟨rfl, rfl, ?_⟩
        simp only [ahead_acceptEvent, ahead_withSize, ahead_withPayload, State.acceptEvent_size, State.withSize_size]
        omega

theorem readFrame_yields (hb : List Byte) (s : State) :
    (readFrame hb s).Yields s.fault (EventReply.TakenFrom 0 (ahead s).length) := by
  unfold readFrame
  dsimp only
  split
  · exact Run.yields_raise _ _
  · split
    · exact Run.yields_raise _ _
    · split
      · exact ⟨by simp, by simp, by simp⟩
      · have hrest := readPayload_yields hb ((dateHeader hb).eventSize.toNat - 80) (s.withHdr (headerRegister hb))
        rwa [State.withHdr_fault, ahead_withHdr] at hrest

/-- A frame read consumes at least its header's 80 bytes beside the payload. -/
theorem nextEvent_yields (s : State) : (nextEvent s).Yields s.fault (EventReply.TakenFrom 80 (ahead s).length) := by
  unfold nextEvent
  split
  · exact ⟨rfl, trivial⟩
  · dsimp only
    split
    · exact ⟨rfl, trivial⟩
    · split
      · exact Run.yields_raise _ _
      · have hread := length_ahead_streamRead 80 s
        exact (readFrame_yields _ (streamRead 80 s).2).mono fun _ _ => EventReply.TakenFrom.mono (by omega)

/-! ### The extractor -/

/-- The source is at its end, or fewer than `n` steps are left. -/
def GbtReply.Advances (n : Nat) (r : GbtReply) (u : State) : Prop := r = .eof ∨ u.stepsLeft < n

theorem GbtReply.Advances.mono {m n : Nat} (hmn : m ≤ n) {r : GbtReply} {u : State} (h : r.Advances m u) : r.Advances n u :=
  h.imp_right fun hlt => hlt.trans_le hmn

section
variable {s : State}

theorem gbtWindow_yields (hp : s.rdPhase = .inEvent) : (gbtWindow s).Yields s.fault (GbtReply.Advances s.stepsLeft) := by
  unfold gbtWindow
  split
  · exact ⟨rfl, .inr (State.stepsLeft_endEvent_lt (by simp [hp]))⟩
  · next hw => exact ⟨rfl, .inr (State.stepsLeft_nextWindow_lt hp (not_lt.1 hw))⟩

theorem gbtLoaded_yields (hp : s.rdPhase = .loaded) : (gbtLoaded s).Yields s.fault (GbtReply.Advances s.stepsLeft) := by
  have hend : (s.withPhase .needEvent).stepsLeft < s.stepsLeft := State.stepsLeft_endEvent_lt (by simp [hp])
  unfold gbtLoaded
  split
  · exact ⟨rfl, .inr hend⟩
  · split
    · have hwalk := gbtWindow_yields (s := (s.withGbtPos 44).withPhase .inEvent) rfl
      exact hwalk.mono fun _ _ => GbtReply.Advances.mono (State.stepsLeft_enterEvent_le hp)
    · exact ⟨rfl, .inr hend⟩

theorem gbtNeedEvent_yields (hp : s.rdPhase = .needEvent) :
    (gbtNeedEvent s).Yields s.fault (GbtReply.Advances s.stepsLeft) :=
  (nextEvent_yields s).bind fun r u hr => by
    cases r with
    | eof => exact ⟨rfl, .inl rfl⟩
    | event =>
      obtain ⟨hl, htaken⟩ := hr
      refine (gbtLoaded_yields hl).mono fun _ _ => GbtReply.Advances.mono ?_
      rw [State.stepsLeft_of_needEvent hp, State.stepsLeft_of_loaded hl]
      omega

/-- The extractor answers EOF or leaves fewer steps than before, in every phase. -/
theorem nextGbt_yields (s : State) : (nextGbt s).Yields s.fault (GbtReply.Advances s.stepsLeft) := by
  unfold nextGbt
  split
  · exact ⟨rfl, .inl rfl⟩
  · cases hp : s.rdPhase with
    | needEvent => exact gbtNeedEvent_yields hp
    | loaded => exact gbtLoaded_yields hp
    | inEvent => exact gbtWindow_yields hp

theorem nextGbt_config {r : GbtReply} {u : State} (h : nextGbt s = .done r u) : u.config = s.config := by
  have hx := nextGbt_extends s
  rw [h] at hx
  exact hx.config

end

/-! ### Dispatch -/

theorem append_yields (e : ElinkId) (v0 v1 : Bool) (s : State) :
    (append e v0 v1 s).Yields s.fault fun _ u => u.stepsLeft = s.stepsLeft := by
  rw [append_eq, ElinkEffect.run]
  split
  · exact Run.yields_raise _ _
  · exact ⟨rfl, State.stepsLeft_afterElink ..⟩

theorem dispatchPair_yields (g : List Byte) (i q : Nat) (s : State) :
    (dispatchPair g i q s).Yields s.fault fun _ u => u.stepsLeft = s.stepsLeft := by
  unfold dispatchPair
  split
  · exact ⟨rfl, rfl⟩
  · exact append_yields ..

theorem dispatchPairs_yields (g : List Byte) (l : List (Nat × Nat)) (ps : List Packet) (s : State) :
    (dispatchPairs g l ps s).Yields s.fault fun _ u => u.stepsLeft = s.stepsLeft := by
  induction l generalizing ps s with
  | nil => exact ⟨rfl, rfl⟩
  | cons iq rest ih =>
    exact (dispatchPair_yields g iq.1 iq.2 s).bind fun p u hu => (ih _ u).mono fun _ _ ht => ht.trans hu

/-- Dispatch consumes no byte of the source and none of the payload. -/
theorem dispatchWord_yields (g : List Byte) (s : State) :
    (dispatchWord g s).Yields s.fault fun _ u => u.stepsLeft = s.stepsLeft := by
  unfold dispatchWord
  split
  · exact ⟨rfl, rfl⟩
  · exact Run.yields_map.2 (dispatchPairs_yields ..)

/-! ### The step of the pipeline -/

theorem stepOn_yields {n : Nat} {r : GbtReply} {s : State} (hr : r.Advances n s) :
    (stepOn r s).Yields s.fault fun _ u => u.halted = true ∨ u.stepsLeft < n := by
  obtain rfl | hlt := hr
  · exact ⟨rfl, .inl rfl⟩
  · cases r with
    | eof => exact ⟨rfl, .inl rfl⟩
    | emptyEvent => exact ⟨rfl, .inr hlt⟩
    | invalidSop => exact ⟨rfl, .inr hlt⟩
    | endOfEvent =>
      simp only [stepOn]
      split
      · exact ⟨by rw [clearAll_frame], .inr (by rwa [State.stepsLeft_clearAll])⟩
      · exact ⟨rfl, .inr hlt⟩
    | word g => exact Run.yields_map.2 ((dispatchWord_yields g s).mono fun _ _ hu => .inr (hu.trans_lt hlt))

/-- A `PL.STEP` halts the block, stops at a fatal, or leaves fewer steps than before (45_pipeline.md R149). -/
theorem pipelineStep_yields (s : State) :
    (pipelineStep s).Yields s.fault fun _ u => u.halted = true ∨ u.stepsLeft < s.stepsLeft := by
  unfold pipelineStep
  split
  · next hh => exact ⟨rfl, .inl hh⟩
  · exact (nextGbt_yields s).bind fun _ _ => stepOn_yields

end Sys2Proof.Machine
end

section
/-! Dispatch reads no answer of a command before: the word that `PL.STEP` sends (45_pipeline.md R147) does what `DSP.WORD` does after
`RD.NEXTGBT` has answered it. -/

namespace Sys2Proof.Machine

/-- A run with the last answer replaced in the state it ends in. -/
def Run.withResult {α : Type} (x : Run α) (r : Answer) : Run α :=
  match x with
  | .done a s => .done a (s.withResult r)
  | .fatal c s => .fatal c (s.withResult r)

section
variable {α β : Type} {x : Run α} {r : Answer}

theorem finish_withResult (x : Run Answer) (r : Answer) : finish (x.withResult r) = finish x := by cases x <;> rfl

theorem Run.bind_withResult {f : α → State → Run β} (hf : ∀ a u, f a (u.withResult r) = (f a u).withResult r) :
    (x.withResult r).bind f = (x.bind f).withResult r := by
  cases x with
  | done a u => exact hf a u
  | fatal c u => rfl

theorem Run.map_withResult (g : α → β) : (x.withResult r).map g = (x.map g).withResult r :=
  Run.bind_withResult fun _ _ => rfl

end

theorem append_withResult (e : ElinkId) (v0 v1 : Bool) (s : State) (r : Answer) :
    append e v0 v1 (s.withResult r) = (append e v0 v1 s).withResult r := by
  rw [append_eq, append_eq, State.withResult_elink, State.withResult_config]
  unfold ElinkEffect.run
  split <;> rfl

theorem dispatchPair_withResult (g : List Byte) (i q : Nat) (s : State) (r : Answer) :
    dispatchPair g i q (s.withResult r) = (dispatchPair g i q s).withResult r := by
  unfold dispatchPair
  rw [State.withResult_mask]
  split
  · rfl
  · exact append_withResult ..

theorem dispatchPairs_withResult (g : List Byte) (l : List (Nat × Nat)) (ps : List Packet) (s : State) (r : Answer) :
    dispatchPairs g l ps (s.withResult r) = (dispatchPairs g l ps s).withResult r := by
  induction l generalizing ps s with
  | nil => rfl
  | cons iq rest ih =>
    rw [dispatchPairs, dispatchPair_withResult]
    exact Run.bind_withResult fun _ _ => ih ..

theorem dispatchWord_withResult (g : List Byte) (s : State) (r : Answer) :
    dispatchWord g (s.withResult r) = (dispatchWord g s).withResult r := by
  unfold dispatchWord
  rw [State.withResult_config]
  split
  · rfl
  · rw [dispatchPairs_withResult, Run.map_withResult]

theorem exec_dspWord_withResult {s : State} (hs : s.fault = none) (g : List Byte) (r : Answer) :
    exec (.dspWord g) (s.withResult r) = finish ((dispatchWord g s).map DispatchReply.answer) := by
  rw [exec_dspWord_eq_command, command_of_unfaulted (s := s.withResult r) hs, dispatchWord_withResult, Run.map_withResult,
    finish_withResult]

end Sys2Proof.Machine
end

section
/-! The statements of 45_pipeline.md: a step as one action of the host, `PL.STEP`, the length of a run, the mask and the status. -/

namespace Sys2Proof.Machine

open Sys2Proof.Claims

/-! ### The host's actions -/

/-- Settles O9: an issued command is decoded, and what it decodes to is executed. -/
theorem stepRunsIssuedCommand : Obligations.StepRunsIssuedCommand := by
  intro s raw rest i hpending hdecode
  simp only [step, hpending, perform, issueCommand, hdecode]
  rfl

/-- Settles O10, by what is pending and what the output queue holds. -/
theorem hostDrainsHeadOrWaits : Obligations.HostDrainsHeadOrWaits := by
  intro s
  refine ⟨fun hpending => by simp only [step, hpending], fun rest hpending => ?_⟩
  have hdrain : step s = .next (drainHead { s with pending := rest }) := by
    simp only [step, hpending, perform]
    rfl
  refine ⟨fun hout => ?_, fun p ps hout => ?_⟩
  · simp only [hdrain, drainHead, hout]
  · simp only [hdrain, drainHead, hout]

/-! ### The status and the mask -/

/-- Settles O14: the two codes are read off the fault and the phase. -/
theorem sysStatusReadsBlock : Obligations.SysStatusReadsBlock := by
  intro s
  refine ⟨rfl, faultCode s.fault, s.rdPhase.code, rfl, fun h => ?_, fun c h => ?_, fun h => ?_, fun h => ?_, fun h => ?_⟩
  all_goals
    rw [h]
    rfl

theorem exec_cfgSetmask_eq_command (m : BitVec 40) (s : State) :
    exec (.cfgSetmask m) s = command s fun s => .done (ok .nothing) (s.withMask m) := rfl

theorem exec_cfgGetmask_eq_command (s : State) : exec .cfgGetmask s = command s fun s => .done (ok (.mask s.mask)) s := rfl

/-- Settles O59: each command's body is one access to the mask register. -/
theorem maskIsWrittenAndRead : Obligations.MaskIsWrittenAndRead := by
  intro s m hs
  refine ⟨rfl, rfl, ?_, ?_⟩
  · rw [exec_cfgSetmask_eq_command, command_of_unfaulted hs, finish_ok]
    rfl
  · rw [exec_cfgGetmask_eq_command, command_of_unfaulted hs, finish_ok]

/-! ### The length of a run -/

/-- A `PL.STEP` of a running block halts it, faults it, or leaves fewer steps than before. -/
theorem exec_plStep_advances {s : State} (hs : s.fault = none) :
    ∃ t, exec .plStep s = .next t ∧ ((t.halted = true ∨ t.fault ≠ none) ∨ t.stepsLeft < s.stepsLeft) := by
  have hstep := pipelineStep_yields s
  rw [exec_plStep_eq_command, command_of_unfaulted hs]
  cases hrun : pipelineStep s with
  | fatal c u =>
    rw [hrun] at hstep
    exact ⟨_, rfl, .inl (.inr hstep)⟩
  | done a u =>
    rw [hrun] at hstep
    exact ⟨_, rfl, hstep.2.imp_left .inl⟩

theorem repeated_plStep_ends (n : Nat) {s : State} (hn : s.stepsLeft < n) :
    ∃ k ≤ n, ∃ t, repeated .plStep k s = some t ∧ (t.halted = true ∨ t.fault ≠ none) := by
  induction n generalizing s with
  | zero => exact absurd hn (Nat.not_lt_zero _)
  | succ n ih =>
    by_cases hs : s.fault = none
    · obtain ⟨t, ht, hend | hlt⟩ := exec_plStep_advances hs
      · exact ⟨1, by omega, t, by simp only [repeated, ht], hend⟩
      · obtain ⟨k, hk, u, hrep, hend⟩ := ih (s := t) (by omega)
        exact ⟨k + 1, by omega, u, by simp only [repeated, ht, hrep], hend⟩
    · exact ⟨0, Nat.zero_le _, s, rfl, .inr hs⟩

/-- Settles O58, by induction on a bound on the steps left. -/
theorem runEnds : Obligations.RunEnds := by
  intro s
  have hbound := s.stepsLeft_le
  obtain ⟨k, hk, hend⟩ := repeated_plStep_ends (s.stepsLeft + 1) (Nat.lt_succ_self _)
  exact ⟨k, by omega, hend⟩

/-! ### What `PL.STEP` does on each answer of the extractor -/

section
variable {s u : State}

theorem exec_plStep_of_halted (hs : s.fault = none) (hh : s.halted = true) : exec .plStep s = returns s .eof .nothing := by
  rw [exec_plStep_eq_command, command_of_unfaulted hs, pipelineStep, if_pos hh]
  rfl

theorem exec_plStep_of_running (hs : s.fault = none) (hh : s.halted = false) :
    exec .plStep s = finish ((nextGbt s).bind stepOn) := by
  rw [exec_plStep_eq_command, command_of_unfaulted hs, pipelineStep, if_neg (Bool.eq_false_iff.1 hh)]

/-- A word goes to `DSP.WORD`: its fault is the step's, else the step answers OK in its place. -/
theorem finish_stepOn_word (hu : u.fault = none) (g : List Byte) (r : Answer) :
    ∃ v, exec (.dspWord g) (u.withResult r) = .next v ∧
      (v.fault = none → finish (stepOn (.word g) u) = returns v .ok .nothing) ∧
      (v.fault ≠ none → finish (stepOn (.word g) u) = .next v) := by
  have hends := dispatchWord_yields g u
  rw [exec_dspWord_withResult hu, stepOn]
  cases hrun : dispatchWord g u with
  | done reply v =>
    rw [hrun] at hends
    exact ⟨_, rfl, fun _ => rfl, fun hv => absurd (hends.1.trans hu) hv⟩
  | fatal c v =>
    rw [hrun] at hends
    exact ⟨_, rfl, fun hv => absurd hv hends, fun _ => rfl⟩

/-- The end of an event force-clears the elinks when the parameters say so (45_pipeline.md R147). -/
theorem finish_stepOn_endOfEvent (u : State) :
    finish (stepOn .endOfEvent u) =
      if u.config.resyncAtEventBoundary then
        returns { u with elinks := u.elinks.map forceCleared } .errEndOfEvent .nothing
      else returns u .errEndOfEvent .nothing := by
  rw [stepOn, finish_done, clearAll_eq]
  split <;> rfl

end

/-- Settles O56: the extractor stops at a fatal, or the step goes on with its answer. -/
theorem plStepFollowsExtractor : Obligations.PlStepFollowsExtractor := by
  intro s t hs
  refine ⟨rfl, exec_plStep_of_halted hs, fun hh ht => ?_⟩
  have hends := nextGbt_yields s
  rw [exec_rdNextgbt hs] at ht
  rw [exec_plStep_of_running hs hh]
  cases hrun : nextGbt s with
  | fatal c u =>
    rw [hrun] at ht
    obtain rfl := Host.Outcome.next.inj ht
    exact ⟨fun _ => rfl, nofun, nofun, nofun, nofun, nofun, nofun⟩
  | done r u =>
    rw [hrun] at ht hends
    obtain rfl := Host.Outcome.next.inj ht
    have hu : u.fault = none := hends.1.trans hs
    rw [Run.bind_done, ← nextGbt_config hrun]
    refine ⟨fun hf => absurd hu hf, ?_⟩
    cases r with
    | word g =>
      refine ⟨fun g' hg => ?_, nofun, nofun, nofun, nofun, nofun⟩
      cases hg
      exact finish_stepOn_word hu g _
    | emptyEvent => exact ⟨nofun, fun _ => rfl, nofun, nofun, nofun, nofun⟩
    | invalidSop => exact ⟨nofun, nofun, fun _ => rfl, nofun, nofun, nofun⟩
    | endOfEvent =>
      rw [finish_stepOn_endOfEvent]
      exact ⟨nofun, nofun, nofun, fun _ hresync => if_pos hresync, fun _ hkeep => if_neg (Bool.eq_false_iff.1 hkeep), nofun⟩
    | eof => exact ⟨nofun, nofun, nofun, nofun, nofun, fun _ => rfl⟩

/-- Settles O57: the extractor takes the window, and `DSP.WORD` finds the room its elinks had before. -/
theorem plStepDeliversWindow : Obligations.PlStepDeliversWindow := by
  intro s hs hh he hp hw hn hroom
  have hread := exec_rdNextgbt_of_window hs he hp hw
  obtain ⟨-, -, hstep⟩ := plStepFollowsExtractor s _ hs
  obtain ⟨-, hword, -⟩ := hstep hh hread
  obtain ⟨u, hu, hok, -⟩ := hword _ rfl
  obtain ⟨t, ht, hframe, hbanks⟩ := dspWordDeliversPairs
    { s with
      gbtPos := s.gbtPos + 16, gbtWords := s.gbtWords + 1,
      result := .returned .ok (.gbt (windowWord s s.gbtPos)) }
    (windowWord s s.gbtPos) hs hn rfl hroom
  obtain rfl := Host.Outcome.next.inj (hu.symm.trans ht)
  refine ⟨{ s with elinks := t.elinks, gbtPos := s.gbtPos + 16, gbtWords := s.gbtWords + 1 }, ?_, rfl, hbanks⟩
  have hfault : t.fault = none := by rw [hframe]; exact hs
  rw [hok hfault, hframe]
  rfl

end Sys2Proof.Machine
end

section
/-! The statements of 60_exceptions.md: what a faulted block refuses (R161, R162), the one way out of a fault (R166), and the numbers
of the statuses and fatals (R157, R159). -/

namespace Sys2Proof.Machine

open Sys2Proof.Claims

section
variable {s t : State} {c : FatalCode} {i : Instr} {raw : RawCommand}

/-! ### Commands on a faulted block -/

theorem exec_of_faulted (hs : s.fault = some c) (hstatus : i ≠ .sysStatus) (hreset : ∀ src, i ≠ .sysReset src) :
    exec i s = returns s .refused .nothing := by
  obtain ⟨body, hbody⟩ := exec_eq_command hstatus hreset
  rw [hbody, command_of_faulted hs]
  rfl

theorem rejected_of_faulted (hs : s.fault = some c) : rejected s = returns s .refused .nothing := command_of_faulted hs _

theorem opcode_of_decode_sysStatus (h : decode (.command raw) = .ok .sysStatus) : raw.opcode = 0x63 := by
  obtain rfl := Fetched.command.inj (encode_of_decodeCommand h)
  rfl

theorem opcode_of_decode_sysReset {src : List Byte} (h : decode (.command raw) = .ok (.sysReset src)) : raw.opcode = 0x7F := by
  obtain rfl := Fetched.command.inj (encode_of_decodeCommand h)
  rfl

/-- An issued command is refused by its opcode alone, whether or not it decodes (60_exceptions.md R161). -/
theorem issueCommand_of_faulted (hs : s.fault = some c) (hstatus : raw.opcode ≠ 0x63) (hreset : raw.opcode ≠ 0x7F) :
    issueCommand raw s = returns s .refused .nothing := by
  unfold issueCommand
  cases hd : decode (.command raw) with
  | error err => exact rejected_of_faulted hs
  | ok i =>
    refine exec_of_faulted hs ?_ ?_
    · rintro rfl
      exact hstatus (opcode_of_decode_sysStatus hd)
    · rintro src rfl
      exact hreset (opcode_of_decode_sysReset hd)

theorem exec_sysReset_clears_fault (src : List Byte) (s : State) :
    ∃ t, exec (.sysReset src) s = .next t ∧ t.fault = none ∧ t.result = .returned .ok .nothing := ⟨_, rfl, rfl, rfl⟩

/-! ### What a fault outlasts -/

@[simp] theorem drainHead_fault (s : State) : (drainHead s).fault = s.fault := by
  unfold drainHead
  split <;> rfl

theorem fault_of_returns {st : Status} {r : Results} (h : returns s st r = .next t) : t.fault = s.fault := by
  obtain rfl := Host.Outcome.next.inj h
  rfl

/-- Of all instructions on a faulted block only `SYS.RESET` touches the fault (60_exceptions.md R166). -/
theorem exec_keeps_fault (hs : s.fault = some c) (hreset : ∀ src, i ≠ .sysReset src) (ht : exec i s = .next t) :
    t.fault = some c := by
  by_cases hstatus : i = .sysStatus
  · subst hstatus
    obtain ⟨-, _, _, hread, -⟩ := sysStatusReadsBlock s
    exact (fault_of_returns (hread.symm.trans ht)).trans hs
  · exact (fault_of_returns ((exec_of_faulted hs hstatus hreset).symm.trans ht)).trans hs

end

/-! ### The obligations -/

/-- Settles O11: every other instruction is a `command`, which looks at the fault first; the two system commands are none. -/
theorem faultedBlockRefuses : Obligations.FaultedBlockRefuses := by
  intro s c hs
  refine ⟨fun i => exec_of_faulted hs, fun raw rest hpending hstatus hreset => ?_, ?_,
    fun src => exec_sysReset_clears_fault src s, fun p ps rest hpending hout => ?_⟩
  · simp only [step, hpending, perform]
    exact issueCommand_of_faulted (s := s.withPending rest) hs hstatus hreset
  · obtain ⟨-, _, _, hread, -⟩ := sysStatusReadsBlock s
    exact ⟨_, hread⟩
  · obtain ⟨-, hdrain⟩ := hostDrainsHeadOrWaits s
    obtain ⟨-, hhead⟩ := hdrain rest hpending
    exact hhead p ps hout

/-- Settles O12, by the four things a step can do: of these only an executed `SYS.RESET` touches the fault. -/
theorem fatalIsSticky : Obligations.FatalIsSticky := by
  intro s t c hs ht
  obtain ⟨-, h⟩ | ⟨raw, rest, i, hpending, hdecode, h⟩ | ⟨raw, rest, err, -, -, h⟩ | ⟨rest, -, h⟩ := step_cases s
  · obtain rfl := Host.Outcome.next.inj (h.symm.trans ht)
    exact .inl hs
  · have hexec := h.symm.trans ht
    by_cases hreset : ∃ src, i = .sysReset src
    · obtain ⟨src, rfl⟩ := hreset
      obtain ⟨u, hu, hclear, -⟩ := exec_sysReset_clears_fault src (s.withPending rest)
      obtain rfl := Host.Outcome.next.inj (hu.symm.trans hexec)
      exact .inr ⟨raw, rest, src, hpending, hdecode, hclear⟩
    · exact .inl (exec_keeps_fault (s := s.withPending rest) hs (not_exists.1 hreset) hexec)
  · have hrefused := rejected_of_faulted (s := s.withPending rest) hs
    exact .inl ((fault_of_returns (hrefused.symm.trans (h.symm.trans ht))).trans hs)
  · obtain rfl := Host.Outcome.next.inj (h.symm.trans ht)
    exact .inl ((drainHead_fault _).trans hs)

/-- Settles O13: each list is read off the two tables of the codes. -/
theorem statusAndFatalNumbers : Obligations.StatusAndFatalNumbers := ⟨rfl, rfl, rfl, rfl⟩

end Sys2Proof.Machine
end

section
/-! The statements of 70_reset_and_hazards.md: what `SYS.RESET` leaves (R175) and the state the machine starts in (R176), both read
off `State.resetWith`. -/

namespace Sys2Proof.Machine

/-- `SYS.RESET` looks at no fault (60_exceptions.md R161): its answer stands in the restarted block. -/
theorem exec_sysReset_eq_next (src : List Byte) (s : State) :
    exec (.sysReset src) s = .next { s.restart src with result := .returned .ok .nothing } := rfl

/-- Settles O15: the block restarts as `State.resetWith` under its own parameters, with every bank a reset one. -/
theorem sysResetRestoresTable : Obligations.SysResetRestoresTable := by
  intro s src
  have hbanks := State.resetWith_elink s.config src
  exact ⟨rfl, _, exec_sysReset_eq_next src s,
    rfl, rfl, rfl, rfl, rfl, rfl, rfl, rfl, rfl, rfl, rfl, rfl, rfl, rfl, hbanks, rfl⟩

/-- Settles O16: the first state is `State.resetWith` under the chip's parameters, valid whatever `N_DISPATCH_BYTES` is. -/
theorem resetStateHoldsTable : Obligations.ResetStateHoldsTable := by
  have hbanks := State.resetWith_elink Config.chip []
  exact ⟨Config.chip_valid, rfl, rfl, rfl, rfl, rfl, rfl, rfl, rfl, rfl, rfl, rfl, rfl, hbanks, rfl⟩

end Sys2Proof.Machine
end
